-- ==== Sys2Proof/Word.lean ====
section
/-! DEFINITION. Word.lean: the types of the engine's data (00_scope.md R8, R9, R10, 10_state.md R20, R22). -/

namespace Sys2Proof

/-- A byte, bit 7 most significant (00_scope.md R8). -/
abbrev Byte := BitVec 8

/-- A word: 32 bits, used only inside key expansion (00_scope.md R9). -/
abbrev Word := BitVec 32

/-- A block `B[0..15]`, `B[0]` first: the state register, a key, a round key, a 16-byte port (00_scope.md R10). -/
abbrev Block := Vector Byte 16

/-- The contents of the round-key RAM, `RK[0..175]` (10_state.md R22). -/
abbrev Schedule := Vector Byte 176

/-- One column of the state matrix, rows 0 to 3 (20_memory.md R51, 43_round_transforms.md R133). -/
structure Column where
  s0 : Byte
  s1 : Byte
  s2 : Byte
  s3 : Byte
  deriving DecidableEq, Repr

end Sys2Proof
end

