-- ==== Sys2Proof/Config.lean ====
section
/-! DEFINITION. Config.lean: the fixed parameters of 00_scope.md R6 and the values the spec leaves open
(00_scope.md R7, the open parameters of 92_eei_decisions.md). The open ones are constants without a body. -/

namespace Sys2Proof

/-- Bytes in a block (R6 `BLOCK_BYTES`). -/
abbrev Config.blockBytes : Nat := 16
/-- Bytes in the cipher key (R6 `KEY_BYTES`). -/
abbrev Config.keyBytes : Nat := 16
/-- Columns of the state (R6 `NB`). -/
abbrev Config.nb : Nat := 4
/-- Words in the cipher key (R6 `NK`). -/
abbrev Config.nk : Nat := 4
/-- Rounds: 9 full and 1 final (R6 `NR`). -/
abbrev Config.nr : Nat := 10
/-- Round keys, round 0 to round 10 (R6 `N_ROUND_KEYS`). -/
abbrev Config.nRoundKeys : Nat := 11
/-- Words in the schedule (R6 `N_WORDS`). -/
abbrev Config.nWords : Nat := 44
/-- Bytes in the schedule (R6 `SCHEDULE_BYTES`). -/
abbrev Config.scheduleBytes : Nat := 176
/-- Entries of the substitution table (R6 `SBOX_ENTRIES`). -/
abbrev Config.sboxEntries : Nat := 256
/-- Index positions of the round-constant table, index 0 unused (R6 `N_RCON`). -/
abbrev Config.nRcon : Nat := 11
/-- The reduction constant of x^8+x^4+x^3+x+1 (R6 `REDUCTION`). -/
abbrev Config.reduction : Byte := 0x1B#8
/-- The fixed circulant matrix of column mixing, one list a row (R6, 43_round_transforms.md R133). -/
abbrev Config.mixMatrix : List (List Byte) := [[2, 3, 1, 1], [1, 2, 3, 1], [1, 1, 2, 3], [3, 1, 1, 2]]

/-- FREE VALUE `RESET_S`: byte `i` of the state register after reset number `n`
(10_state.md R40, 92_eei_decisions.md D19; notes/assumptions/1.md). -/
opaque Config.resetS : (n : Nat) → (i : Nat) → Byte

/-- FREE VALUE `RESET_RK`: byte `a` of the round-key RAM after reset number `n`
(10_state.md R40, 92_eei_decisions.md D19; notes/assumptions/1.md). -/
opaque Config.resetRK : (n : Nat) → (a : Nat) → Byte

/-- FREE VALUE `RCON0`: the content of round-constant entry 0, which no rule reads
(42_key_schedule.md R112, 92_eei_decisions.md D26; notes/assumptions/2.md). -/
opaque Config.rcon0 : Word

/-- One less than `CYCLES_PER_STEP` of the micro-operation with sequencer code `c`. -/
opaque Config.extraCycles : (c : Nat) → Nat

/-- `CYCLES_PER_STEP`: a positive number for each micro-operation, on which no rule depends
(70_reset_and_hazards.md R212, 92_eei_decisions.md D24; notes/assumptions/3.md). -/
def Config.cyclesPerStep (c : Nat) : Nat := Config.extraCycles c + 1

end Sys2Proof
end

