-- ==== Sys2Proof/Syntax.lean ====
section
/-! DEFINITION. Syntax.lean: one constructor per row of spec/opcode_table.json, in the table's order.
The operands of a command are its `LEN` field and the 16 bytes on `DIN` (30_encoding.md R73); the operands of a
datapath function are the inputs its own rule gives it. -/

namespace Sys2Proof

inductive Instr
  -- Format CMD: the 8-bit command word (30_encoding.md R70, R71).
  /-- `NOP`, `OP = 0`; `LEN` is carried and ignored (44_cipher_driver.md R152). -/
  | nop (len : BitVec 5)
  /-- `EXPAND_KEY`, `OP = 1` (44_cipher_driver.md R153). -/
  | expandKey (len : BitVec 5) (din : Block)
  /-- `ENCRYPT_BLOCK`, `OP = 2` (44_cipher_driver.md R154). -/
  | encryptBlock (len : BitVec 5) (din : Block)
  /-- `RESERVED_OP3`, `OP = 3` (60_exceptions.md R182). -/
  | reservedOp3 (len : BitVec 5)
  /-- `RESERVED_OP4_7`, `OP = 4 + opLow` (60_exceptions.md R182). -/
  | reservedOp47 (opLow : BitVec 2) (len : BitVec 5)
  -- Format PIN: the input `rst`.
  /-- `RESET`, a step with `rst = 1` (70_reset_and_hazards.md R200). -/
  | reset
  -- Format SEQ: the micro-operation selected by `PHASE` (30_encoding.md R74).
  /-- `SEQ_IDLE` (44_cipher_driver.md R155). -/
  | seqIdle
  /-- `SEQ_KEXP` (44_cipher_driver.md R156). -/
  | seqKexp
  /-- `SEQ_INITIAL` (44_cipher_driver.md R157). -/
  | seqInitial
  /-- `SEQ_ROUND` (44_cipher_driver.md R158). -/
  | seqRound
  /-- `SEQ_FINAL` (44_cipher_driver.md R159). -/
  | seqFinal
  /-- `SEQ_DONE` (44_cipher_driver.md R160). -/
  | seqDone
  -- Format RCTL: one enabled stage of the round pipeline (30_encoding.md R75).
  /-- `SUB_BYTES` (43_round_transforms.md R130). -/
  | subBytes
  /-- `SHIFT_ROWS` (43_round_transforms.md R131). -/
  | shiftRows
  /-- `MIX_COLUMNS` (43_round_transforms.md R135). -/
  | mixColumns
  /-- `ADD_ROUND_KEY` (43_round_transforms.md R134). -/
  | addRoundKey
  -- Format FUNC: datapath functions and loads that no bits select (30_encoding.md R80).
  /-- `GFMUL` (40_gf_multiplier.md R90). -/
  | gfmul (a b : Byte)
  /-- `XTIME` (40_gf_multiplier.md R91). -/
  | xtime (a : Byte)
  /-- `SBOX` (41_sbox_rom.md R100). -/
  | sbox (x : Byte)
  /-- `ROTWORD` (42_key_schedule.md R110). -/
  | rotWord (w : Word)
  /-- `SUBWORD` (42_key_schedule.md R111). -/
  | subWord (w : Word)
  /-- `RCON`, at the 4-bit ROM address `i` (42_key_schedule.md R112, 20_memory.md R56). -/
  | rcon (i : BitVec 4)
  /-- `KEYWORDS` (42_key_schedule.md R113). -/
  | keyWords (k : Block)
  /-- `NEXTWORD`, at the 6-bit word index `i` (42_key_schedule.md R114). -/
  | nextWord (i : BitVec 6) (prev back : Word)
  /-- `EXPAND_KEY_FN` (42_key_schedule.md R115). -/
  | expandKeyFn (k : Block)
  /-- `KX_LOAD` (42_key_schedule.md R118). -/
  | kxLoad (din : Block)
  /-- `KX_STEP` (42_key_schedule.md R119). -/
  | kxStep
  /-- `MIXCOLUMN` (43_round_transforms.md R133). -/
  | mixColumn (c : Column)
  /-- `ROUNDFN` (43_round_transforms.md R137). -/
  | roundFn (ctl : BitVec 4) (s k : Block)
  /-- `ENC_LOAD` (44_cipher_driver.md R154). -/
  | encLoad (din : Block)
  /-- `ENCRYPT_BLOCK_FN` (44_cipher_driver.md R162). -/
  | encryptBlockFn (p : Block) (sched : Schedule)
  deriving DecidableEq, Repr

end Sys2Proof
end

