-- ==== Sys2Proof/WellFormed.lean ====
section
/-! DEFINITION. WellFormed.lean: the operands the spec gives an instruction, where its type alone does not say so. -/

namespace Sys2Proof

/-- Round-constant ROM addresses that hold an entry: 1 to 10 (42_key_schedule.md R112, 20_memory.md R56). -/
def rconIndexOk (i : BitVec 4) : Bool := 1 ≤ i.toNat && i.toNat ≤ 10

/-- Word indices the recurrence generates: 4 to 43 (42_key_schedule.md R114). -/
def nextWordIndexOk (i : BitVec 6) : Bool := 4 ≤ i.toNat && i.toNat ≤ 43

/-- An instruction whose operands the spec gives a meaning. Every command word is one: `LEN ≠ 16` is no encoding
error but a rejection the engine performs (30_encoding.md R72, R76). -/
def Instr.wellFormed : Instr → Bool
  | .nop _ => true
  | .expandKey _ _ => true
  | .encryptBlock _ _ => true
  | .reservedOp3 _ => true
  | .reservedOp47 _ _ => true
  | .reset => true
  | .seqIdle => true
  | .seqKexp => true
  | .seqInitial => true
  | .seqRound => true
  | .seqFinal => true
  | .seqDone => true
  | .subBytes => true
  | .shiftRows => true
  | .mixColumns => true
  | .addRoundKey => true
  | .gfmul _ _ => true
  | .xtime _ => true
  | .sbox _ => true
  | .rotWord _ => true
  | .subWord _ => true
  | .rcon i => rconIndexOk i
  | .keyWords _ => true
  | .nextWord i _ _ => nextWordIndexOk i
  | .expandKeyFn _ => true
  | .kxLoad _ => true
  | .kxStep => true
  | .mixColumn _ => true
  | .roundFn _ _ _ => true
  | .encLoad _ => true
  | .encryptBlockFn _ _ => true

end Sys2Proof
end

