-- ==== Sys2Proof/Decode.lean ====
section
/-! DEFINITION. Decode.lean: from the bits of a format to an instruction, and back (30_encoding.md).
Four formats have bits: CMD, PIN, SEQ and RCTL. Format FUNC has none, and nothing decodes to it (30_encoding.md R80). -/

namespace Sys2Proof

/-- The bits of one format, as the engine sees them. -/
inductive Bits
  /-- The command word on `cmd` with the 16 bytes on `DIN` (30_encoding.md R70, R73). -/
  | cmd (w : BitVec 8) (din : Block)
  /-- The input `rst` (30_encoding.md R80). -/
  | pin (rst : BitVec 1)
  /-- The sequencer code in `PHASE` (30_encoding.md R74). -/
  | seq (code : BitVec 3)
  /-- The stage-enable word `RCTL[3:0]` (30_encoding.md R75). -/
  | rctl (ctl : BitVec 4)
  deriving DecidableEq, Repr

/-- Why bits stand for no instruction. -/
inductive DecodeReject
  /-- `rst = 0` selects nothing. -/
  | rstLow
  /-- Sequencer codes 6 and 7 have no meaning (30_encoding.md R74). -/
  | unusedSeqCode
  /-- The stage-enable word enables no stage, or several: it stands for the list `rctlStages`. -/
  | notOneStage
  deriving DecidableEq, Repr

/-- `OP = cmd[7:5]` (30_encoding.md R70). -/
def opField (w : BitVec 8) : BitVec 3 := w.extractLsb' 5 3

/-- `LEN = cmd[4:0]` (30_encoding.md R70). -/
def lenField (w : BitVec 8) : BitVec 5 := w.extractLsb' 0 5

/-- The command word with its two fields (30_encoding.md R70). -/
def cmdWord (op : BitVec 3) (len : BitVec 5) : BitVec 8 := op ++ len

/-- The operation codes (30_encoding.md R71, R76): every 8-bit word is exactly one command. -/
def decodeCmd (w : BitVec 8) (din : Block) : Instr :=
  if opField w = 0 then .nop (lenField w)
  else if opField w = 1 then .expandKey (lenField w) din
  else if opField w = 2 then .encryptBlock (lenField w) din
  else if opField w = 3 then .reservedOp3 (lenField w)
  else .reservedOp47 (w.extractLsb' 5 2) (lenField w)

/-- The `rst` input: only `rst = 1` selects an operation (30_encoding.md R80). -/
def decodePin (rst : BitVec 1) : Except DecodeReject Instr :=
  if rst = 1 then .ok .reset else .error .rstLow

/-- The sequencer codes (30_encoding.md R74). -/
def decodeSeq (code : BitVec 3) : Except DecodeReject Instr :=
  if code = 0 then .ok .seqIdle
  else if code = 1 then .ok .seqKexp
  else if code = 2 then .ok .seqInitial
  else if code = 3 then .ok .seqRound
  else if code = 4 then .ok .seqFinal
  else if code = 5 then .ok .seqDone
  else .error .unusedSeqCode

/-- The stages a stage-enable word enables, in the fixed order of traversal (30_encoding.md R75). -/
def rctlStages (ctl : BitVec 4) : List Instr :=
  (if ctl.getLsbD 3 then [.subBytes] else []) ++ (if ctl.getLsbD 2 then [.shiftRows] else [])
    ++ (if ctl.getLsbD 1 then [.mixColumns] else []) ++ (if ctl.getLsbD 0 then [.addRoundKey] else [])

/-- A stage-enable word that enables one stage stands for that stage. -/
def decodeRctl (ctl : BitVec 4) : Except DecodeReject Instr :=
  match rctlStages ctl with
  | [i] => .ok i
  | _ => .error .notOneStage

/-- The decoder, total on the bits of every format, rejecting by name. -/
def decode : Bits → Except DecodeReject Instr
  | .cmd w din => .ok (decodeCmd w din)
  | .pin rst => decodePin rst
  | .seq code => decodeSeq code
  | .rctl ctl => decodeRctl ctl

/-- `DIN` of a command that reads none of it. -/
def noOperand : Block := Vector.ofFn fun _ => 0

/-- The bits of an instruction, from the encodings of 30_encoding.md and spec/opcode_table.json; none for the rows of
format FUNC, which have no encoding (30_encoding.md R80). -/
def encode : Instr → Option Bits
  | .nop len => some (.cmd (cmdWord 0b000 len) noOperand)
  | .expandKey len din => some (.cmd (cmdWord 0b001 len) din)
  | .encryptBlock len din => some (.cmd (cmdWord 0b010 len) din)
  | .reservedOp3 len => some (.cmd (cmdWord 0b011 len) noOperand)
  | .reservedOp47 opLow len => some (.cmd (cmdWord (1#1 ++ opLow) len) noOperand)
  | .reset => some (.pin 1)
  | .seqIdle => some (.seq 0)
  | .seqKexp => some (.seq 1)
  | .seqInitial => some (.seq 2)
  | .seqRound => some (.seq 3)
  | .seqFinal => some (.seq 4)
  | .seqDone => some (.seq 5)
  | .subBytes => some (.rctl 0b1000)
  | .shiftRows => some (.rctl 0b0100)
  | .mixColumns => some (.rctl 0b0010)
  | .addRoundKey => some (.rctl 0b0001)
  | .gfmul _ _ => none
  | .xtime _ => none
  | .sbox _ => none
  | .rotWord _ => none
  | .subWord _ => none
  | .rcon _ => none
  | .keyWords _ => none
  | .nextWord _ _ _ => none
  | .expandKeyFn _ => none
  | .kxLoad _ => none
  | .kxStep => none
  | .mixColumn _ => none
  | .roundFn _ _ _ => none
  | .encLoad _ => none
  | .encryptBlockFn _ _ => none

/-- Sixteen operand bytes from a number, byte 0 lowest. -/
def blockOfNat (n : Nat) : Block := Vector.ofFn fun i => BitVec.ofNat 8 (n >>> (8 * i.val))

/-- The bits an opcode-table row's number stands for. The row's width names its format: 1 is PIN, 3 is SEQ, 4 is RCTL,
8 and more is CMD, the bytes after the command word being `DIN[0]`, `DIN[1]`, … (zero where the number has none);
no other width is a format's (30_encoding.md R70 to R80; notes/assumptions/7.md). -/
def bitsOfTable (nbits w : Nat) : Option Bits :=
  if nbits = 1 then some (.pin (BitVec.ofNat 1 w))
  else if nbits = 3 then some (.seq (BitVec.ofNat 3 w))
  else if nbits = 4 then some (.rctl (BitVec.ofNat 4 w))
  else if 8 ≤ nbits then some (.cmd (BitVec.ofNat 8 w) (blockOfNat ((w % 2 ^ nbits) >>> 8)))
  else none

/-- The instruction the decoder reads from a table row's number. -/
def decodeTableWord (nbits w : Nat) : Option Instr :=
  match bitsOfTable nbits w with
  | some b =>
    match decode b with
    | .ok i => some i
    | .error _ => none
  | none => none

end Sys2Proof
end

