-- ==== Sys2Proof/Machine/State.lean ====
section
/-! DEFINITION. Machine/State.lean: the state of the engine (10_state.md), the reasons a step can stop, and the state
after reset. Register names are the spec's own. -/

namespace Sys2Proof.Machine

/-- The sequencer phases, the contents of the 3-bit register `PHASE` (10_state.md R26). Codes 6 and 7 are excluded by
the type, as 93_implementation_defined.md I8 recommends. -/
inductive Phase
  | idle | kexp | initial | round | final | done
  deriving DecidableEq, Repr

/-- The four kinds of rejection (60_exceptions.md R180). -/
inductive Rejection
  | invalidLength | illegalCommand | busy | noKey
  deriving DecidableEq, Repr

/-- The contents of the 3-bit register `ERR`: the result of the most recent non-NOP command (10_state.md R33). Codes 5 to
7 are excluded by the type (93_implementation_defined.md I8). -/
inductive ErrCode
  | accepted
  | rejected (k : Rejection)
  deriving DecidableEq, Repr

/-- What the host drives on the input ports in one step (10_state.md R35). -/
structure PortSample where
  rst : Bool
  cmdValid : Bool
  cmd : BitVec 8
  din : Block
  deriving DecidableEq, Repr

/-- What a datapath function drives on its output wires: a byte, a word, a column, the four key words, a block or a
schedule; `quiet` before any was asked. -/
inductive Wire
  | quiet
  | byte (b : Byte)
  | word (w : Word)
  | column (c : Column)
  | keyWords (w0 w1 w2 w3 : Word)
  | block (b : Block)
  | schedule (k : Schedule)
  deriving DecidableEq, Repr

/-- The engine. `PHASE` to `RK` are the spec's registers and memory (10_state.md R20 to R34). The last three fields are
the model's own: `inputs` is the host's side of the ports, `wire` shows what a row of format FUNC computes, and
`resets` picks the free values of a reset (notes/assumptions/4.md, 5.md, 1.md). -/
structure State where
  /-- The sequencer phase (10_state.md R26). -/
  PHASE : Phase
  /-- The round counter, 4 bits (10_state.md R27). -/
  RND : BitVec 4
  /-- The key-word index, 6 bits (10_state.md R28). -/
  KI : BitVec 6
  /-- A complete schedule is in `RK` (10_state.md R31). -/
  KVALID : Bool
  /-- The result of the last non-NOP command (10_state.md R33). -/
  ERR : ErrCode
  /-- Some command since reset was rejected (10_state.md R34). -/
  EFLAG : Bool
  /-- The AES state register, 16 bytes (10_state.md R20). -/
  S : Block
  /-- The round-key RAM, 176 bytes (10_state.md R22). -/
  RK : Schedule
  /-- The port samples of the steps to come, the next one first (10_state.md R35, 44_cipher_driver.md R168). -/
  inputs : List PortSample
  /-- The output of the datapath function last asked. -/
  wire : Wire
  /-- How many reset steps there have been. -/
  resets : Nat
  deriving DecidableEq, Repr

/-- Why a step stops. -/
inductive Fault
  /-- SAFE. Raised by `step` in a state that violates the sequencer invariants, and by a sequencer micro-operation that
  is not the one selected or whose precondition does not hold: no such state is reachable after a reset, and the spec
  gives it no step (10_state.md R29, 93_implementation_defined.md I7, I8). -/
  | stuck
  /-- SAFE. Raised by a datapath function at an index its memory does not have: `RCON` above 10, `NEXTWORD` outside 4 to
  43, `ADD_ROUND_KEY` with `RND` above 10 (20_memory.md R56, R60). -/
  | noSuchEntry
  deriving DecidableEq, Repr

/-- Why an instruction is refused. -/
inductive Refusal
  /-- SAFE. The instruction has no meaning in the model yet. No arm of `exec` answers it. -/
  | notModelled (mnemonic : String)
  deriving DecidableEq, Repr

/-- The engine right after a reset step (10_state.md R40). `S` and `RK` hold the free values of reset number 0: the spec
gives them no value (notes/assumptions/1.md). -/
def State.reset : State where
  S := Vector.ofFn fun i => Config.resetS 0 i.val
  RK := Vector.ofFn fun a => Config.resetRK 0 a.val
  PHASE := .idle
  RND := 0
  KI := 0
  KVALID := false
  ERR := .accepted
  EFLAG := false
  inputs := []
  wire := .quiet
  resets := 1

end Sys2Proof.Machine
end

