-- ==== Sys2Proof/Machine/Flags.lean ====
section
/-! DEFINITION. Machine/Flags.lean: the status flags and the codes of the status registers (10_state.md R26, R31 to R34,
60_exceptions.md R180). -/

namespace Sys2Proof.Machine

/-- The codes of `PHASE` (10_state.md R26). -/
def phaseCode : Phase → BitVec 3
  | .idle => 0
  | .kexp => 1
  | .initial => 2
  | .round => 3
  | .final => 4
  | .done => 5

/-- The codes of the rejections (60_exceptions.md R180). -/
def rejectionCode : Rejection → BitVec 3
  | .invalidLength => 1
  | .illegalCommand => 2
  | .busy => 3
  | .noKey => 4

/-- `ERR` as the 3 bits on `err` (10_state.md R33, R36). -/
def errCode : ErrCode → BitVec 3
  | .accepted => 0
  | .rejected k => rejectionCode k

/-- The phases in which an operation is in progress (10_state.md R32). -/
def phaseBusy : Phase → Bool
  | .idle => false
  | .kexp => true
  | .initial => true
  | .round => true
  | .final => true
  | .done => false

/-- `busy` (10_state.md R32). -/
def State.busy (s : State) : Bool := phaseBusy s.PHASE

/-- `done` (10_state.md R32). -/
def State.done (s : State) : Bool := s.PHASE == .done

end Sys2Proof.Machine
end

