-- ==== Sys2Proof/Machine/Operands.lean ====
section
/-! DEFINITION. Machine/Operands.lean: byte order, layouts and the operand forms of commands (20_memory.md R50 to R55,
30_encoding.md R72, R73). -/

namespace Sys2Proof.Machine

/-- `word(b0, b1, b2, b3)`: big-endian, `b0` in bits 31:24 (00_scope.md R9, 20_memory.md R50). -/
def word (b0 b1 b2 b3 : Byte) : Word := b0 ++ b1 ++ b2 ++ b3

/-- `byte_j(w)`, j = 0..3, `byte_0` in bits 31:24 (00_scope.md R9). -/
def byteOf (j : Nat) (w : Word) : Byte := w.extractLsb' (8 * (3 - j)) 8

/-- Word `c` of a 16-byte operand, c = 0..3: column `c`, top to bottom (20_memory.md R52). -/
def blockWord (b : Block) (c : Fin 4) : Word := word b[4 * c.val] b[4 * c.val + 1] b[4 * c.val + 2] b[4 * c.val + 3]

/-- Row `r` of a column. -/
def columnRow (c : Column) (r : Fin 4) : Byte :=
  match r with
  | 0 => c.s0
  | 1 => c.s1
  | 2 => c.s2
  | 3 => c.s3

/-- `s[r][c] = S[4·c + r]` (20_memory.md R51). -/
def matrixByte (s : Block) (r c : Fin 4) : Byte := s[4 * c.val + r.val]

/-- Column `c` of the state, `S[4c]` to `S[4c+3]` (20_memory.md R51). -/
def matrixColumn (s : Block) (c : Fin 4) : Column := ⟨matrixByte s 0 c, matrixByte s 1 c, matrixByte s 2 c, matrixByte s 3 c⟩

/-- The block with a given matrix view (20_memory.md R51). -/
def ofMatrix (f : (r c : Fin 4) → Byte) : Block :=
  Vector.ofFn fun i : Fin 16 => f ⟨i.val % 4, by omega⟩ ⟨i.val / 4, by omega⟩

/-- `LEN` declares the 16 bytes a command needs (30_encoding.md R72). -/
def lenOk (len : BitVec 5) : Bool := len == 16

end Sys2Proof.Machine
end

