-- ==== Sys2Proof/Machine/Ops.lean ====
section
/-! DEFINITION. Machine/Ops.lean: the named operations over the round-key RAM and the registers, the rejection of a
command, and the sequencer invariants. -/

namespace Sys2Proof.Machine

/-! ### The round-key RAM (20_memory.md R53, R55, R56, R59)

Every caller forms an index inside the RAM (20_memory.md R60); a meaning that takes an index from a register checks it. -/

/-- `RK[a]`, a = 0..175. -/
def rkByte (k : Schedule) (a : Nat) : Byte := k[a]?.getD 0

/-- `W[i] = word(RK[4i], RK[4i+1], RK[4i+2], RK[4i+3])`, i = 0..43 (20_memory.md R53). -/
def rkWord (k : Schedule) (i : Nat) : Word :=
  word (rkByte k (4 * i)) (rkByte k (4 * i + 1)) (rkByte k (4 * i + 2)) (rkByte k (4 * i + 3))

/-- `RoundKey(r) = RK[16r .. 16r+15]`, r = 0..10 (10_state.md R22). -/
def rkRoundKey (k : Schedule) (r : Nat) : Block := Vector.ofFn fun i => rkByte k (16 * r + i.val)

/-- `W[i] <- w`: `RK[4i + j] <- byte_j(w)` (20_memory.md R53). -/
def rkWriteWord (k : Schedule) (i : Nat) (w : Word) : Schedule :=
  (((k.setIfInBounds (4 * i) (byteOf 0 w)).setIfInBounds (4 * i + 1) (byteOf 1 w)).setIfInBounds (4 * i + 2)
    (byteOf 2 w)).setIfInBounds (4 * i + 3) (byteOf 3 w)

/-- `RK[i] <- d[i]` for i = 0..15, that is `W[0..3] <- KeyWords(d)` (20_memory.md R54, 42_key_schedule.md R118). -/
def rkLoad (k : Schedule) (d : Block) : Schedule :=
  rkWriteWord (rkWriteWord (rkWriteWord (rkWriteWord k 0 (blockWord d 0)) 1 (blockWord d 1)) 2 (blockWord d 2)) 3
    (blockWord d 3)

/-! ### Registers -/

/-- `S` takes a new value, all 16 bytes at once (20_memory.md R59). -/
def State.writeS (s : State) (b : Block) : State := { s with S := b }

/-- A datapath function drives its result on its output wires; no register changes (40_gf_multiplier.md R95,
30_encoding.md R80; notes/assumptions/5.md). -/
def State.drive (s : State) (w : Wire) : State := { s with wire := w }

/-! ### Rejection: the engine's exception entry -/

/-- The rejection of a command: `ERR <- code`, `EFLAG <- 1`, nothing else. There is no saved state, no mode, no vector
and no handler, so there is no return either: `ERR` is overwritten by the next non-NOP command and `EFLAG` stays until
reset (60_exceptions.md R186, R188). -/
def State.reject (s : State) (k : Rejection) : State := { s with ERR := .rejected k, EFLAG := true }

/-- The acceptance of a command records code 0 (60_exceptions.md R180, 44_cipher_driver.md R150). -/
def State.accept (s : State) : State := { s with ERR := .accepted }

/-! ### The sequencer invariants -/

/-- The invariants of 10_state.md R29, with the counter ranges of R27 and R28 (93_implementation_defined.md I8). -/
abbrev State.wf (s : State) : Prop :=
  s.RND.toNat ≤ 10
  ∧ (s.KI.toNat = 0 ∨ (4 ≤ s.KI.toNat ∧ s.KI.toNat ≤ 44))
  ∧ (s.PHASE = .initial → s.RND.toNat = 0)
  ∧ (s.PHASE = .round → 1 ≤ s.RND.toNat ∧ s.RND.toNat ≤ 9)
  ∧ (s.PHASE = .final → s.RND.toNat = 10)
  ∧ (s.PHASE = .done → s.RND.toNat = 10)
  ∧ (s.PHASE = .kexp → 4 ≤ s.KI.toNat ∧ s.KI.toNat ≤ 43 ∧ s.KVALID = false)
  ∧ (s.KVALID = true → s.KI.toNat = 44)
  ∧ (s.PHASE = .initial ∨ s.PHASE = .round ∨ s.PHASE = .final ∨ s.PHASE = .done → s.KVALID = true)

/-- A micro-operation in a state it is not defined in has no step (10_state.md R29, 93_implementation_defined.md I8). -/
def unlessStuck (pre : Bool) (s' : State) : Host.Outcome State Fault Refusal :=
  if pre then .next s' else .fault .stuck

end Sys2Proof.Machine
end

