-- ==== Sys2Proof/Machine/KeySchedule.lean ====
section
/-! DEFINITION. Machine/KeySchedule.lean: the key schedule expander (42_key_schedule.md). -/

namespace Sys2Proof.Machine

/-- `RotWord(w) = ((w << 8) & 0xFFFFFFFF) | (w >> 24)` (42_key_schedule.md R110). -/
def rotWord (w : Word) : Word := (w <<< 8) ||| (w >>> 24)

/-- `SubWord`: the S-box on each byte of a word (42_key_schedule.md R111). -/
def subWord (w : Word) : Word :=
  word (sboxRead (byteOf 0 w)) (sboxRead (byteOf 1 w)) (sboxRead (byteOf 2 w)) (sboxRead (byteOf 3 w))

/-- The entries of the round-constant ROM, 1 to 10; it has no other (42_key_schedule.md R112; notes/assumptions/8.md). -/
def rconRom : (i : Nat) → Option Word
  | 1 => some 0x01000000#32
  | 2 => some 0x02000000#32
  | 3 => some 0x04000000#32
  | 4 => some 0x08000000#32
  | 5 => some 0x10000000#32
  | 6 => some 0x20000000#32
  | 7 => some 0x40000000#32
  | 8 => some 0x80000000#32
  | 9 => some 0x1b000000#32
  | 10 => some 0x36000000#32
  | _ => none

/-- `RCON[i]`; where the ROM has no entry, the free value `RCON0` (42_key_schedule.md R112; notes/assumptions/2.md). -/
def rconRead (i : Nat) : Word := (rconRom i).getD Config.rcon0

/-- `NextWord(i, prev, back)`, i = 4..43 (42_key_schedule.md R114). -/
def nextWord (i : Nat) (prev back : Word) : Word :=
  back ^^^ (if i % 4 = 0 then subWord (rotWord prev) ^^^ rconRead (i / 4) else prev)

/-- The four consecutive schedule words `w[n]`, `w[n+1]`, `w[n+2]`, `w[n+3]` of a key. -/
def keyWindow (K : Block) : (n : Nat) → Word × Word × Word × Word
  | 0 => (blockWord K 0, blockWord K 1, blockWord K 2, blockWord K 3)
  | n + 1 =>
    let w := keyWindow K n
    (w.2.1, w.2.2.1, w.2.2.2, nextWord (n + 4) w.2.2.2 w.1)

/-- `expand_key(K)` as words: `w[i]` (42_key_schedule.md R115). -/
def expandWord (K : Block) (i : Nat) : Word := (keyWindow K i).1

/-- `expand_key(K)` as bytes: `sched[4i + j] = byte_j(w[i])` (42_key_schedule.md R115). -/
def expandKey (K : Block) : Schedule := Vector.ofFn fun a => byteOf (a.val % 4) (expandWord K (a.val / 4))

/-! ### Micro-operations -/

/-- `KX_LOAD` (42_key_schedule.md R118). -/
def State.kxLoad (s : State) (din : Block) : State :=
  { s with RK := rkLoad s.RK din, KI := 4, KVALID := false, PHASE := .kexp }

/-- The next state of `KX_STEP` (42_key_schedule.md R119). -/
def State.kxStep (s : State) : State :=
  let i := s.KI.toNat
  { s with
    RK := rkWriteWord s.RK i (nextWord i (rkWord s.RK (i - 1)) (rkWord s.RK (i - 4)))
    KVALID := if i = 43 then true else s.KVALID
    PHASE := if i = 43 then .idle else s.PHASE
    KI := s.KI + 1 }

/-- The precondition of `KX_STEP` (42_key_schedule.md R119). -/
def State.kxStepReady (s : State) : Bool := s.PHASE == .kexp && 4 ≤ s.KI.toNat && s.KI.toNat ≤ 43

/-! ### Meanings -/

/-- `ROTWORD` (42_key_schedule.md R110). -/
def execRotWord (w : Word) (s : State) : Host.Outcome State Fault Refusal := .next (s.drive (.word (rotWord w)))

/-- `SUBWORD` (42_key_schedule.md R111). -/
def execSubWord (w : Word) (s : State) : Host.Outcome State Fault Refusal := .next (s.drive (.word (subWord w)))

/-- `RCON` (42_key_schedule.md R112): the ROM has the addresses 0 (content open) to 10. -/
def execRcon (i : BitVec 4) (s : State) : Host.Outcome State Fault Refusal :=
  if i.toNat ≤ 10 then .next (s.drive (.word (rconRead i.toNat))) else .fault .noSuchEntry

/-- `KEYWORDS` (42_key_schedule.md R113). -/
def execKeyWords (k : Block) (s : State) : Host.Outcome State Fault Refusal :=
  .next (s.drive (.keyWords (blockWord k 0) (blockWord k 1) (blockWord k 2) (blockWord k 3)))

/-- `NEXTWORD` (42_key_schedule.md R114): the recurrence has the word indices 4 to 43. -/
def execNextWord (i : BitVec 6) (prev back : Word) (s : State) : Host.Outcome State Fault Refusal :=
  if 4 ≤ i.toNat ∧ i.toNat ≤ 43 then .next (s.drive (.word (nextWord i.toNat prev back))) else .fault .noSuchEntry

/-- `EXPAND_KEY_FN` (42_key_schedule.md R115). -/
def execExpandKeyFn (k : Block) (s : State) : Host.Outcome State Fault Refusal :=
  .next (s.drive (.schedule (expandKey k)))

/-- `KX_LOAD` (42_key_schedule.md R118). -/
def execKxLoad (din : Block) (s : State) : Host.Outcome State Fault Refusal := .next (s.kxLoad din)

/-- `KX_STEP` (42_key_schedule.md R119). -/
def execKxStep (s : State) : Host.Outcome State Fault Refusal := unlessStuck s.kxStepReady s.kxStep

end Sys2Proof.Machine
end

