-- ==== Sys2Proof/Machine/GfMultiplier.lean ====
section
/-! DEFINITION. Machine/GfMultiplier.lean: the GF(2^8) multiplier (40_gf_multiplier.md). -/

namespace Sys2Proof.Machine

/-- `xtime(a)`: one left shift with conditional reduction (40_gf_multiplier.md R91). -/
def xtime (a : Byte) : Byte := (a <<< 1) ^^^ (if a.getLsbD 7 then Config.reduction else 0)

/-- `n` iterations of the loop of 40_gf_multiplier.md R90 on the accumulator `p`, the shifting `a` and the shifting `b`. -/
def gmulLoop : (n : Nat) → (p a b : Byte) → Byte
  | 0, p, _, _ => p
  | n + 1, p, a, b => gmulLoop n (if b.getLsbD 0 then p ^^^ a else p) (xtime a) (b >>> 1)

/-- `gmul(a, b)`: the field product, always eight iterations (40_gf_multiplier.md R90). -/
def gmul (a b : Byte) : Byte := gmulLoop 8 0 a b

/-- `GFMUL` (40_gf_multiplier.md R90, R95). -/
def execGfmul (a b : Byte) (s : State) : Host.Outcome State Fault Refusal := .next (s.drive (.byte (gmul a b)))

/-- `XTIME` (40_gf_multiplier.md R91). -/
def execXtime (a : Byte) (s : State) : Host.Outcome State Fault Refusal := .next (s.drive (.byte (xtime a)))

end Sys2Proof.Machine
end

