-- ==== Sys2Proof/Machine/RoundPipeline.lean ====
section
/-! DEFINITION. Machine/RoundPipeline.lean: the four transformations of the round pipeline and their composition
(43_round_transforms.md), each a function of the whole old state (R138). -/

namespace Sys2Proof.Machine

/-- `SubBytes(S)[i] = SBOX[S[i]]` (43_round_transforms.md R130). -/
def subBytes (s : Block) : Block := Vector.ofFn fun i => sboxRead s[i]

/-- `ShiftRows(s)[r][c] = s[r][(c + r) mod 4]` (43_round_transforms.md R131). -/
def shiftRows (s : Block) : Block := ofMatrix fun r c => matrixByte s r ⟨(c.val + r.val) % 4, by omega⟩

/-- `MixColumn(s0, s1, s2, s3)` (43_round_transforms.md R133). -/
def mixColumn (c : Column) : Column where
  s0 := gmul 2 c.s0 ^^^ gmul 3 c.s1 ^^^ c.s2 ^^^ c.s3
  s1 := c.s0 ^^^ gmul 2 c.s1 ^^^ gmul 3 c.s2 ^^^ c.s3
  s2 := c.s0 ^^^ c.s1 ^^^ gmul 2 c.s2 ^^^ gmul 3 c.s3
  s3 := gmul 3 c.s0 ^^^ c.s1 ^^^ c.s2 ^^^ gmul 2 c.s3

/-- `MixColumns`: each column by itself (43_round_transforms.md R135). -/
def mixColumns (s : Block) : Block := ofMatrix fun r c => columnRow (mixColumn (matrixColumn s c)) r

/-- `AddRoundKey(S, k)[i] = S[i] ^ k[i]` (43_round_transforms.md R134). -/
def addRoundKey (s k : Block) : Block := Vector.ofFn fun i => s[i] ^^^ k[i]

/-- `RoundFn(ctl, S, k)`: the enabled stages in the fixed order (43_round_transforms.md R137, 30_encoding.md R75). -/
def roundFn (ctl : BitVec 4) (s k : Block) : Block :=
  let t1 := if ctl.getLsbD 3 then subBytes s else s
  let t2 := if ctl.getLsbD 2 then shiftRows t1 else t1
  let t3 := if ctl.getLsbD 1 then mixColumns t2 else t2
  if ctl.getLsbD 0 then addRoundKey t3 k else t3

/-- The loop of `encrypt_block`: the initial combination and the first `n` full rounds (44_cipher_driver.md R162). -/
def encryptRounds (P : Block) (sched : Schedule) : (n : Nat) → Block
  | 0 => addRoundKey P (rkRoundKey sched 0)
  | n + 1 => addRoundKey (mixColumns (shiftRows (subBytes (encryptRounds P sched n)))) (rkRoundKey sched (n + 1))

/-- `encrypt_block(P, sched)` (44_cipher_driver.md R162). -/
def encryptBlock (P : Block) (sched : Schedule) : Block :=
  addRoundKey (shiftRows (subBytes (encryptRounds P sched 9))) (rkRoundKey sched 10)

/-! ### Meanings of the stage rows

A stage row by itself is the pipeline with that one stage enabled, its output written back to `S`
(notes/assumptions/6.md). -/

/-- `SUB_BYTES` (43_round_transforms.md R130). -/
def execSubBytes (s : State) : Host.Outcome State Fault Refusal := .next (s.writeS (subBytes s.S))

/-- `SHIFT_ROWS` (43_round_transforms.md R131). -/
def execShiftRows (s : State) : Host.Outcome State Fault Refusal := .next (s.writeS (shiftRows s.S))

/-- `MIX_COLUMNS` (43_round_transforms.md R135). -/
def execMixColumns (s : State) : Host.Outcome State Fault Refusal := .next (s.writeS (mixColumns s.S))

/-- `ADD_ROUND_KEY` with the round key `RND` names (43_round_transforms.md R134); the RAM has round keys 0 to 10. -/
def execAddRoundKey (s : State) : Host.Outcome State Fault Refusal :=
  if s.RND.toNat ≤ 10 then .next (s.writeS (addRoundKey s.S (rkRoundKey s.RK s.RND.toNat))) else .fault .noSuchEntry

/-! ### Meanings of the function rows -/

/-- `MIXCOLUMN` (43_round_transforms.md R133). -/
def execMixColumn (c : Column) (s : State) : Host.Outcome State Fault Refusal := .next (s.drive (.column (mixColumn c)))

/-- `ROUNDFN` (43_round_transforms.md R137). -/
def execRoundFn (ctl : BitVec 4) (b k : Block) (s : State) : Host.Outcome State Fault Refusal :=
  .next (s.drive (.block (roundFn ctl b k)))

/-- `ENCRYPT_BLOCK_FN` (44_cipher_driver.md R162). -/
def execEncryptBlockFn (p : Block) (sched : Schedule) (s : State) : Host.Outcome State Fault Refusal :=
  .next (s.drive (.block (encryptBlock p sched)))

end Sys2Proof.Machine
end

