-- ==== Sys2Proof/Machine/Sequencer.lean ====
section
/-! DEFINITION. Machine/Sequencer.lean: the sequencer micro-operations (44_cipher_driver.md R155 to R161).
A micro-operation is the one `PHASE` holds the code of; asked for in another phase, or with a counter its precondition
excludes, it has no step (10_state.md R29). -/

namespace Sys2Proof.Machine

/-- The stage-enable word a phase generates: in INITIAL, ROUND and FINAL the word of 30_encoding.md R75.
DESIGN CHOICE (log entry 14): in IDLE, KEXP and DONE the spec gives the wire no word, and the model's is 0000; no step,
output or tap reads it there. -/
def phaseRctl : Phase → BitVec 4
  | .idle => 0b0000
  | .kexp => 0b0000
  | .initial => 0b0001
  | .round => 0b1111
  | .final => 0b1101
  | .done => 0b0000

/-- The output of the round pipeline under a stage-enable word, with the round key `RND` names. -/
def State.pipeline (s : State) (ctl : BitVec 4) : Block := roundFn ctl s.S (rkRoundKey s.RK s.RND.toNat)

/-- The next state of `SEQ_INITIAL` (44_cipher_driver.md R157). -/
def State.seqInitial (s : State) : State := { s with S := s.pipeline (phaseRctl .initial), RND := 1, PHASE := .round }

/-- The next state of `SEQ_ROUND` (44_cipher_driver.md R158). -/
def State.seqRound (s : State) : State :=
  { s with
    S := s.pipeline (phaseRctl .round)
    PHASE := if s.RND.toNat = 9 then .final else s.PHASE
    RND := s.RND + 1 }

/-- The next state of `SEQ_FINAL` (44_cipher_driver.md R159). -/
def State.seqFinal (s : State) : State := { s with S := s.pipeline (phaseRctl .final), PHASE := .done }

/-- `SEQ_IDLE` (44_cipher_driver.md R155). -/
def execSeqIdle (s : State) : Host.Outcome State Fault Refusal := unlessStuck (s.PHASE == .idle) s

/-- `SEQ_KEXP`: `KX_STEP` (44_cipher_driver.md R156, 42_key_schedule.md R119). -/
def execSeqKexp (s : State) : Host.Outcome State Fault Refusal := unlessStuck s.kxStepReady s.kxStep

/-- `SEQ_INITIAL` (44_cipher_driver.md R157). -/
def execSeqInitial (s : State) : Host.Outcome State Fault Refusal :=
  unlessStuck (s.PHASE == .initial && s.RND.toNat == 0) s.seqInitial

/-- `SEQ_ROUND` (44_cipher_driver.md R158). -/
def execSeqRound (s : State) : Host.Outcome State Fault Refusal :=
  unlessStuck (s.PHASE == .round && 1 ≤ s.RND.toNat && s.RND.toNat ≤ 9) s.seqRound

/-- `SEQ_FINAL` (44_cipher_driver.md R159). -/
def execSeqFinal (s : State) : Host.Outcome State Fault Refusal :=
  unlessStuck (s.PHASE == .final && s.RND.toNat == 10) s.seqFinal

/-- `SEQ_DONE` (44_cipher_driver.md R160). -/
def execSeqDone (s : State) : Host.Outcome State Fault Refusal := unlessStuck (s.PHASE == .done) s

/-- `SeqOp`: the micro-operation of a step, selected by `PHASE` (44_cipher_driver.md R150, 30_encoding.md R74). -/
def seqOp (s : State) : Host.Outcome State Fault Refusal :=
  match s.PHASE with
  | .idle => execSeqIdle s
  | .kexp => execSeqKexp s
  | .initial => execSeqInitial s
  | .round => execSeqRound s
  | .final => execSeqFinal s
  | .done => execSeqDone s

end Sys2Proof.Machine
end

