-- ==== Sys2Proof/Machine/Commands.lean ====
section
/-! DEFINITION. Machine/Commands.lean: the host's commands (44_cipher_driver.md R150 to R154), their rejections in order
of priority (60_exceptions.md R180 to R185), and reset (70_reset_and_hazards.md R200). -/

namespace Sys2Proof.Machine

/-- A rejected command: the rejection, then the sequencer micro-operation of the step (44_cipher_driver.md R150,
60_exceptions.md R186). -/
def rejectThenSeqOp (k : Rejection) (s : State) : Host.Outcome State Fault Refusal := seqOp (s.reject k)

/-- `ENC_LOAD` (44_cipher_driver.md R154). -/
def State.encLoad (s : State) (din : Block) : State :=
  { s with ERR := .accepted, S := din, RND := 0, PHASE := .initial }

/-- The free contents of `S` after reset number `n` (10_state.md R40). -/
def resetBlock (n : Nat) : Block := Vector.ofFn fun i => Config.resetS n i.val

/-- The free contents of `RK` after reset number `n` (10_state.md R40). -/
def resetSchedule (n : Nat) : Schedule := Vector.ofFn fun a => Config.resetRK n a.val

/-- The next state of a reset step (70_reset_and_hazards.md R200, 10_state.md R40): `S` and `RK` take fresh free values,
neither cleared nor kept (93_implementation_defined.md I16). -/
def State.resetStep (s : State) : State :=
  { s with
    S := resetBlock s.resets
    RK := resetSchedule s.resets
    PHASE := .idle
    RND := 0
    KI := 0
    KVALID := false
    ERR := .accepted
    EFLAG := false
    resets := s.resets + 1 }

/-- `NOP`: `SeqOp` (44_cipher_driver.md R152). -/
def execNop (_len : BitVec 5) (s : State) : Host.Outcome State Fault Refusal := seqOp s

/-- `EXPAND_KEY` (44_cipher_driver.md R150, R153). -/
def execExpandKey (len : BitVec 5) (din : Block) (s : State) : Host.Outcome State Fault Refusal :=
  if s.busy then rejectThenSeqOp .busy s
  else if !lenOk len then rejectThenSeqOp .invalidLength s
  else .next (s.accept.kxLoad din)

/-- `ENCRYPT_BLOCK` (44_cipher_driver.md R150, R154). -/
def execEncryptBlock (len : BitVec 5) (din : Block) (s : State) : Host.Outcome State Fault Refusal :=
  if s.busy then rejectThenSeqOp .busy s
  else if !lenOk len then rejectThenSeqOp .invalidLength s
  else if !s.KVALID then rejectThenSeqOp .noKey s
  else .next (s.accept.encLoad din)

/-- `RESERVED_OP3`: always `IllegalCommand` (60_exceptions.md R182). -/
def execReservedOp3 (_len : BitVec 5) (s : State) : Host.Outcome State Fault Refusal := rejectThenSeqOp .illegalCommand s

/-- `RESERVED_OP4_7`: always `IllegalCommand` (60_exceptions.md R182). -/
def execReservedOp47 (_opLow : BitVec 2) (_len : BitVec 5) (s : State) : Host.Outcome State Fault Refusal :=
  rejectThenSeqOp .illegalCommand s

/-- `RESET` (70_reset_and_hazards.md R200). -/
def execReset (s : State) : Host.Outcome State Fault Refusal := .next s.resetStep

/-- `ENC_LOAD` (44_cipher_driver.md R154). -/
def execEncLoad (din : Block) (s : State) : Host.Outcome State Fault Refusal := .next (s.encLoad din)

end Sys2Proof.Machine
end

