-- ==== Sys2Proof/Machine/Ports.lean ====
section
/-! DEFINITION. Machine/Ports.lean: the input ports of a step, the output ports and the observer taps (10_state.md R35 to
R37, 60_exceptions.md R193), and the bits the engine acts on. -/

namespace Sys2Proof.Machine

/-! ### Inputs -/

/-- A step in which the host presents nothing (30_encoding.md R77). -/
def idlePort : PortSample where
  rst := false
  cmdValid := false
  cmd := 0
  din := noOperand

/-- What the ports show in the next step; nothing once the host's list is used up (notes/assumptions/4.md). -/
def State.port (s : State) : PortSample := s.inputs.headD idlePort

/-- The state with a list of port samples to come (10_state.md R35). -/
def State.offer (s : State) (ps : List PortSample) : State := { s with inputs := ps }

/-- The ports have been sampled (10_state.md R35). -/
def State.sampled (s : State) : State := { s with inputs := s.inputs.tail }

/-- The bits that select what the next step does: `rst` first, then a command if one is presented, else `PHASE`
(44_cipher_driver.md R150, 30_encoding.md R77). -/
def fetchBits (s : State) : Bits :=
  if s.port.rst then .pin 1
  else if s.port.cmdValid then .cmd s.port.cmd s.port.din
  else .seq (phaseCode s.PHASE)

/-! ### Outputs, functions of the state after the step (10_state.md R36) -/

/-- `kvalid`. -/
def State.kvalidOut (s : State) : Bool := s.KVALID

/-- `err[2:0]`. -/
def State.errOut (s : State) : BitVec 3 := errCode s.ERR

/-- `eflag`. -/
def State.eflagOut (s : State) : Bool := s.EFLAG

/-- `DOUT[0..15]`. -/
def State.dout (s : State) : Block := s.S

/-- A 16-byte port drawn as a 128-bit bus, byte 0 in bits 127:120 (10_state.md R37). -/
def busOf (b : Block) : BitVec 128 := blockWord b 0 ++ blockWord b 1 ++ blockWord b 2 ++ blockWord b 3

/-- The bytes of a 128-bit bus, and of a 32-digit hex string read as a number: byte 0 leftmost (10_state.md R37,
00_scope.md R10). -/
def ofBus (x : BitVec 128) : Block := Vector.ofFn fun i => x.extractLsb' (8 * (15 - i.val)) 8

/-! ### Observer taps (60_exceptions.md R193) -/

/-- `tap_state`. -/
def State.tapState (s : State) : Block := s.S

/-- `tap_rk(r)`, r = 0..10. -/
def State.tapRk (s : State) (r : Fin 11) : Block := rkRoundKey s.RK r.val

/-- `tap_phase`. -/
def State.tapPhase (s : State) : BitVec 3 := phaseCode s.PHASE

/-- `tap_rnd`. -/
def State.tapRnd (s : State) : BitVec 4 := s.RND

/-- `tap_ki`. -/
def State.tapKi (s : State) : BitVec 6 := s.KI

/-- `tap_sb = SubBytes(S)`. -/
def State.tapSb (s : State) : Block := subBytes s.S

/-- `tap_sr = ShiftRows(tap_sb)`. -/
def State.tapSr (s : State) : Block := shiftRows s.tapSb

/-- `tap_mc = MixColumns(tap_sr)`. -/
def State.tapMc (s : State) : Block := mixColumns s.tapSr

/-! ### Selecting a micro-operation

For the host's `withFetchWord`: the sequencer registers as they stand when a micro-operation comes next. -/

/-- The sequencer registers of a state in which phase `p` has just been entered (44_cipher_driver.md R161). -/
def State.enterPhase (s : State) (p : Phase) : State :=
  match p with
  | .idle => { s with PHASE := .idle, RND := 0, KI := 0, KVALID := false }
  | .kexp => { s with PHASE := .kexp, RND := 0, KI := 4, KVALID := false }
  | .initial => { s with PHASE := .initial, RND := 0, KI := 44, KVALID := true }
  | .round => { s with PHASE := .round, RND := 1, KI := 44, KVALID := true }
  | .final => { s with PHASE := .final, RND := 10, KI := 44, KVALID := true }
  | .done => { s with PHASE := .done, RND := 10, KI := 44, KVALID := true }

/-- `PHASE` selects `p` next: as it is, where it does so already in a legal state. -/
def State.selectPhase (s : State) (p : Phase) : State := if s.PHASE = p ∧ s.wf then s else s.enterPhase p

end Sys2Proof.Machine
end

