-- ==== Sys2Proof/Machine/Dispatch.lean ====
section
/-! DEFINITION. Machine/Dispatch.lean: one arm per instruction. -/

namespace Sys2Proof.Machine

/-- What an instruction does. -/
def exec (i : Instr) (s : State) : Host.Outcome State Fault Refusal :=
  match i with
  | .nop len => Sys2Proof.Machine.execNop len s
  | .expandKey len din => Sys2Proof.Machine.execExpandKey len din s
  | .encryptBlock len din => Sys2Proof.Machine.execEncryptBlock len din s
  | .reservedOp3 len => Sys2Proof.Machine.execReservedOp3 len s
  | .reservedOp47 opLow len => Sys2Proof.Machine.execReservedOp47 opLow len s
  | .reset => Sys2Proof.Machine.execReset s
  | .seqIdle => Sys2Proof.Machine.execSeqIdle s
  | .seqKexp => Sys2Proof.Machine.execSeqKexp s
  | .seqInitial => Sys2Proof.Machine.execSeqInitial s
  | .seqRound => Sys2Proof.Machine.execSeqRound s
  | .seqFinal => Sys2Proof.Machine.execSeqFinal s
  | .seqDone => Sys2Proof.Machine.execSeqDone s
  | .subBytes => Sys2Proof.Machine.execSubBytes s
  | .shiftRows => Sys2Proof.Machine.execShiftRows s
  | .mixColumns => Sys2Proof.Machine.execMixColumns s
  | .addRoundKey => Sys2Proof.Machine.execAddRoundKey s
  | .gfmul a b => Sys2Proof.Machine.execGfmul a b s
  | .xtime a => Sys2Proof.Machine.execXtime a s
  | .sbox x => Sys2Proof.Machine.execSbox x s
  | .rotWord w => Sys2Proof.Machine.execRotWord w s
  | .subWord w => Sys2Proof.Machine.execSubWord w s
  | .rcon j => Sys2Proof.Machine.execRcon j s
  | .keyWords k => Sys2Proof.Machine.execKeyWords k s
  | .nextWord j prev back => Sys2Proof.Machine.execNextWord j prev back s
  | .expandKeyFn k => Sys2Proof.Machine.execExpandKeyFn k s
  | .kxLoad din => Sys2Proof.Machine.execKxLoad din s
  | .kxStep => Sys2Proof.Machine.execKxStep s
  | .mixColumn c => Sys2Proof.Machine.execMixColumn c s
  | .roundFn ctl b k => Sys2Proof.Machine.execRoundFn ctl b k s
  | .encLoad din => Sys2Proof.Machine.execEncLoad din s
  | .encryptBlockFn p sched => Sys2Proof.Machine.execEncryptBlockFn p sched s

end Sys2Proof.Machine
end

