-- ==== Sys2Proof/Machine/Step.lean ====
section
/-! DEFINITION. Machine/Step.lean: one step of the engine (44_cipher_driver.md R150), and how a table row's word is put
where the next step takes it from. -/

namespace Sys2Proof.Machine

/-- One step: the ports are sampled, and what they and `PHASE` select is done. In a state that violates the sequencer
invariants only a reset step is defined (10_state.md R29, 93_implementation_defined.md I7). -/
def step (s : State) : Host.Outcome State Fault Refusal :=
  if s.port.rst = true ∨ s.wf then
    match decode (fetchBits s) with
    | .ok i => exec i s.sampled
    | .error _ => .fault .stuck
  else .fault .stuck

/-- `s` with the bits of a table row (numbered as `decodeTableWord` numbers them) where the next step takes them from.
A command word and `rst` are put before the host's port samples. A sequencer code, and a stage-enable word the sequencer
generates, are selected by `PHASE` with its counters, in a step without a command; the 13 other stage-enable words are
generated by no state (30_encoding.md R75), so nothing selects them (notes/assumptions/7.md). -/
def State.withFetchWord (s : State) (nbits w : Nat) : State :=
  match bitsOfTable nbits w with
  | some (.cmd c din) => s.offer (⟨false, true, c, din⟩ :: s.inputs)
  | some (.pin rst) => if rst = 1 then s.offer (⟨true, false, 0, noOperand⟩ :: s.inputs) else s
  | some (.seq code) =>
    let s' := s.offer (idlePort :: s.inputs)
    if code = 0 then s'.selectPhase .idle
    else if code = 1 then s'.selectPhase .kexp
    else if code = 2 then s'.selectPhase .initial
    else if code = 3 then s'.selectPhase .round
    else if code = 4 then s'.selectPhase .final
    else if code = 5 then s'.selectPhase .done
    else s
  | some (.rctl ctl) =>
    let s' := s.offer (idlePort :: s.inputs)
    if ctl = 0b0001 then s'.selectPhase .initial
    else if ctl = 0b1111 then s'.selectPhase .round
    else if ctl = 0b1101 then s'.selectPhase .final
    else s
  | none => s

end Sys2Proof.Machine
end

