-- ==== Sys2Proof/Safety.lean ====
section
/-! DEFINITION. Safety.lean: the terms claims use for a good state and a safe run. -/

namespace Sys2Proof

open Machine

/-- Words `4 .. n-1` of the round-key RAM follow the recurrence from the words before them (42_key_schedule.md R114). -/
abbrev Safety.expandedBelow (k : Schedule) (n : Nat) : Prop :=
  ∀ i, 4 ≤ i → i < n → rkWord k i = nextWord i (rkWord k (i - 1)) (rkWord k (i - 4))

/-- What `KVALID` and `KI` promise of the schedule: complete when `KVALID = 1` (10_state.md R31), correct below `KI`
while a key expansion is in progress (20_memory.md R61, 42_key_schedule.md R119). -/
abbrev Safety.scheduleOk (s : State) : Prop :=
  (s.KVALID = true → Safety.expandedBelow s.RK 44) ∧ (s.PHASE = .kexp → Safety.expandedBelow s.RK s.KI.toNat)

/-- The machine's invariant: the sequencer invariants and the schedule's. -/
abbrev Safety.Inv (s : State) : Prop := s.wf ∧ Safety.scheduleOk s

/-- A step that goes on. -/
abbrev Safety.goesOn (o : Host.Outcome State Fault Refusal) : Prop := ∃ t, o = .next t

/-- No port sample of the list asserts `rst`. -/
abbrev Safety.noReset (ps : List PortSample) : Prop := ∀ p ∈ ps, p.rst = false

/-- The sample presents a command other than `NOP` (44_cipher_driver.md R150). -/
def Safety.presents (p : PortSample) : Bool := p.cmdValid && opField p.cmd != 0

end Sys2Proof
end

