-- ==== Sys2Proof/Certificates/Slice0/Obligations.lean ====
section
/-! DEFINITION. Certificates/Slice0/Obligations.lean: the statements for the provers. Each is listed in OBLIGATIONS.json.
A statement quantifies over every value of the free values: `Config`'s constants have no body, and the field `resets`
that picks them is never fixed. -/

open Sys2Proof Sys2Proof.Machine

/-! ### Decoding and encoding -/

/-- The words of 30_encoding.md R71, R74, R75, written out. -/
def Obligations.SampleWordsDecode : Prop :=
  ∀ din : Block,
    decode (.cmd 0b00000000#8 din) = .ok (.nop 0) ∧ decode (.cmd 0b00011111#8 din) = .ok (.nop 31)
    ∧ decode (.cmd 0b00110000#8 din) = .ok (.expandKey 16 din) ∧ decode (.cmd 0b00101111#8 din) = .ok (.expandKey 15 din)
    ∧ decode (.cmd 0b01010000#8 din) = .ok (.encryptBlock 16 din)
    ∧ decode (.cmd 0b01011111#8 din) = .ok (.encryptBlock 31 din)
    ∧ decode (.cmd 0b01111111#8 din) = .ok (.reservedOp3 31) ∧ decode (.cmd 0b11110000#8 din) = .ok (.reservedOp47 3 16)
    ∧ decode (.pin 0b1#1) = .ok .reset ∧ decode (.seq 0b001#3) = .ok .seqKexp ∧ decode (.seq 0b011#3) = .ok .seqRound
    ∧ decode (.seq 0b110#3) = .error .unusedSeqCode ∧ decode (.seq 0b111#3) = .error .unusedSeqCode
    ∧ decode (.rctl 0b1000#4) = .ok .subBytes ∧ decode (.rctl 0b0001#4) = .ok .addRoundKey

/-- 30_encoding.md R76: what the decoder alone decides of each of the 256 command words. -/
def Obligations.CommandWordsAreClassified : Prop :=
  ∀ (w : BitVec 8) (din : Block),
    (w.toNat ≤ 0x1F → decodeCmd w din = .nop (lenField w))
    ∧ (w.toNat = 0x30 → decodeCmd w din = .expandKey 16 din)
    ∧ (0x20 ≤ w.toNat → w.toNat ≤ 0x3F → w.toNat ≠ 0x30 → ∃ len, len ≠ 16 ∧ decodeCmd w din = .expandKey len din)
    ∧ (w.toNat = 0x50 → decodeCmd w din = .encryptBlock 16 din)
    ∧ (0x40 ≤ w.toNat → w.toNat ≤ 0x5F → w.toNat ≠ 0x50 → ∃ len, len ≠ 16 ∧ decodeCmd w din = .encryptBlock len din)
    ∧ (0x60 ≤ w.toNat → (∃ len, decodeCmd w din = .reservedOp3 len)
        ∨ ∃ opLow len, decodeCmd w din = .reservedOp47 opLow len)

/-- Decoding the encoding of any instruction that has one gives the instruction back, with every operand. -/
def Obligations.DecodingUndoesEncoding : Prop :=
  ∀ (i : Instr) (b : Bits), encode i = some b → decode b = .ok i

/-- Encoding what was decoded gives the bits back: the command word always, the `DIN` bytes where the command has
them as its operand, and the whole of the other formats. No two words of a format stand for one instruction. -/
def Obligations.EncodingUndoesDecoding : Prop :=
  (∀ (w : BitVec 8) (din : Block), ∃ d : Block, encode (decodeCmd w din) = some (.cmd w d)
      ∧ (opField w = 1 ∨ opField w = 2 → d = din))
  ∧ (∀ (x : BitVec 1) (i : Instr), decode (.pin x) = .ok i → encode i = some (.pin x))
  ∧ (∀ (x : BitVec 3) (i : Instr), decode (.seq x) = .ok i → encode i = some (.seq x))
  ∧ (∀ (x : BitVec 4) (i : Instr), decode (.rctl x) = .ok i → encode i = some (.rctl x))

/-- 10_state.md R37: the 128-bit drawing of a 16-byte port, and the reading of a hex string. -/
def Obligations.BusDrawsByteZeroHighest : Prop :=
  (∀ (b : Block) (i : Fin 16), (busOf b).extractLsb' (120 - 8 * i.val) 8 = b[i]) ∧ (∀ b : Block, ofBus (busOf b) = b)
  ∧ ∀ x : BitVec 128, busOf (ofBus x) = x

/-! ### The step -/

/-- 44_cipher_driver.md R150, 30_encoding.md R77: a step samples the ports and runs what `rst`, the command word or
`PHASE` decodes to. That the samples stand in a list of the state is the model's choice (notes/assumptions/4.md). -/
def Obligations.StepRunsTheDecodedInstruction : Prop :=
  ∀ s : State,
    (s.port.rst = true → step s = exec .reset (s.offer s.inputs.tail))
    ∧ (s.port.rst = false → s.wf → s.port.cmdValid = true →
        step s = exec (decodeCmd s.port.cmd s.port.din) (s.offer s.inputs.tail))
    ∧ (s.port.rst = false → s.wf → s.port.cmdValid = false →
        ∃ i, decode (.seq (phaseCode s.PHASE)) = .ok i ∧ step s = exec i (s.offer s.inputs.tail))

/-- 60_exceptions.md R187, 10_state.md R29: in a legal state every step goes on, whatever the host presents. -/
def Obligations.LegalStatesNeverStop : Prop :=
  ∀ s : State, s.wf → ∃ t, step s = .next t

/-- 10_state.md R29: the sequencer invariants (with the counter ranges of R27 and R28) hold after reset, every step keeps
them, and a state that violates one has no step but a reset. -/
def Obligations.SequencerInvariantsHoldAndAreKept : Prop :=
  State.reset.wf
  ∧ (∀ s t : State, s.wf → step s = .next t → t.wf)
  ∧ (∀ s : State, s.port.rst = true → ∃ t, step s = .next t ∧ t.wf)
  ∧ (∀ s : State, ¬ s.wf → s.port.rst = false → step s = .fault .stuck)

/-- Every step keeps the sequencer invariants together with what `KVALID` and `KI` promise of the schedule
(10_state.md R31, 42_key_schedule.md R119). -/
def Obligations.ScheduleInvariantIsKept : Prop :=
  ∀ s t : State, Safety.Inv s → step s = .next t → Safety.Inv t

/-- The state after reset meets that invariant. -/
def Obligations.ResetMeetsTheInvariant : Prop := Safety.Inv State.reset

/-- 10_state.md R31: with `KVALID = 1`, `RK` holds exactly the schedule of the key in its first 16 bytes. -/
def Obligations.ValidScheduleIsTheKeysExpansion : Prop :=
  ∀ s : State, Safety.Inv s → s.KVALID = true → s.RK = expandKey (rkRoundKey s.RK 0)

/-- 70_reset_and_hazards.md R200: a reset step from any state leaves the stated values (`S` and `RK` are left open), and
what the other ports show in it makes no difference. -/
def Obligations.ResetStepLeavesTheResetState : Prop :=
  (∀ s : State, s.port.rst = true → ∃ t, step s = .next t ∧ t.PHASE = .idle ∧ t.RND = 0 ∧ t.KI = 0 ∧ t.KVALID = false
      ∧ t.ERR = .accepted ∧ t.EFLAG = false)
  ∧ ∀ (s : State) (p q : PortSample) (rest : List PortSample), p.rst = true → q.rst = true →
      step (s.offer (p :: rest)) = step (s.offer (q :: rest))

/-- What a reset leaves, in every state and in the model's `State.reset`, with the outputs it gives (10_state.md R40,
70_reset_and_hazards.md R201), and that nothing of the registers before it reaches the state after it
(93_implementation_defined.md I16). `S` and `RK` are left open. The model's own fields (notes/assumptions/1.md, 4.md,
5.md): `inputs` and `wire` stay, and `resets` alone picks what `S` and `RK` hold. -/
def Obligations.ResetCompletesEverywhere : Prop :=
  let afterReset (t : State) : Prop :=
    t.PHASE = .idle ∧ t.RND = 0 ∧ t.KI = 0 ∧ t.KVALID = false ∧ t.ERR = .accepted ∧ t.EFLAG = false ∧ t.busy = false
      ∧ t.done = false ∧ t.kvalidOut = false ∧ t.errOut = 0 ∧ t.eflagOut = false
  afterReset State.reset
  ∧ (∀ s : State, ∃ t, exec .reset s = .next t ∧ afterReset t ∧ t.inputs = s.inputs ∧ t.wire = s.wire)
  ∧ ∀ s u : State, s.inputs = u.inputs → s.wire = u.wire → s.resets = u.resets → exec .reset s = exec .reset u

/-- 30_encoding.md R77: with `cmd_valid = 0` the step is a pure sequencer step in which `cmd` and `DIN` are ignored and `ERR`
is unchanged, and a step that presents `NOP`, with any `LEN`, is the same step. -/
def Obligations.NopStepEqualsStepWithoutCommand : Prop :=
  ∀ (s : State) (p q : PortSample) (rest : List PortSample),
    p.rst = false → q.rst = false → p.cmdValid = false → q.cmdValid = false ∨ opField q.cmd = 0 →
    step (s.offer (p :: rest)) = step (s.offer (q :: rest))
    ∧ (∀ t, step (s.offer (p :: rest)) = .next t → t.ERR = s.ERR)
    ∧ (s.wf → ∃ i, decode (.seq (phaseCode s.PHASE)) = .ok i
        ∧ step (s.offer (p :: rest)) = exec i (s.offer rest))

/-- 70_reset_and_hazards.md R205: `DIN` is sampled only in a step that accepts a command; in every other step it is
ignored. -/
def Obligations.DinIsReadOnlyOnAcceptance : Prop :=
  ∀ (s : State) (p : PortSample) (rest : List PortSample) (d : Block),
    ¬ (p.rst = false ∧ p.cmdValid = true ∧ s.busy = false
        ∧ (p.cmd = 0x30#8 ∨ (p.cmd = 0x50#8 ∧ s.KVALID = true))) →
    step (s.offer (p :: rest)) = step (s.offer ({ p with din := d } :: rest))

/-- 44_cipher_driver.md R161: there is no branching on data. Which phase, counters and flags come next does not depend on
`S`, `RK` or `DIN`. -/
def Obligations.ControlNeverDependsOnData : Prop :=
  ∀ s u t v : State,
    s.PHASE = u.PHASE → s.RND = u.RND → s.KI = u.KI → s.KVALID = u.KVALID → s.ERR = u.ERR → s.EFLAG = u.EFLAG →
    s.port.rst = u.port.rst → s.port.cmdValid = u.port.cmdValid → s.port.cmd = u.port.cmd →
    step s = .next t → step u = .next v →
    t.PHASE = v.PHASE ∧ t.RND = v.RND ∧ t.KI = v.KI ∧ t.KVALID = v.KVALID ∧ t.ERR = v.ERR ∧ t.EFLAG = v.EFLAG

/-- 44_cipher_driver.md R161: the transition table, in a step that is no reset. -/
def Obligations.PhasesFollowTheTransitionTable : Prop :=
  ∀ s t : State, s.wf → s.port.rst = false → step s = .next t →
    let accepts := s.port.cmdValid = true ∧ s.busy = false
    let expand := accepts ∧ s.port.cmd = 0x30#8
    let encrypt := accepts ∧ s.port.cmd = 0x50#8 ∧ s.KVALID = true
    (expand → t.PHASE = .kexp ∧ t.KI.toNat = 4 ∧ t.RND = s.RND)
    ∧ (encrypt → t.PHASE = .initial ∧ t.RND.toNat = 0 ∧ t.KI = s.KI)
    ∧ (¬ expand → ¬ encrypt →
        (s.PHASE = .idle → t.PHASE = .idle ∧ t.RND = s.RND ∧ t.KI = s.KI)
        ∧ (s.PHASE = .kexp → t.PHASE = (if s.KI.toNat = 43 then .idle else .kexp) ∧ t.KI.toNat = s.KI.toNat + 1
            ∧ t.RND = s.RND)
        ∧ (s.PHASE = .initial → t.PHASE = .round ∧ t.RND.toNat = 1 ∧ t.KI = s.KI)
        ∧ (s.PHASE = .round → t.PHASE = (if s.RND.toNat = 9 then .final else .round) ∧ t.RND.toNat = s.RND.toNat + 1
            ∧ t.KI = s.KI)
        ∧ (s.PHASE = .final → t.PHASE = .done ∧ t.RND = s.RND ∧ t.KI = s.KI)
        ∧ (s.PHASE = .done → t.PHASE = .done ∧ t.RND = s.RND ∧ t.KI = s.KI))

/-- 10_state.md R33, R34: `ERR` holds the result of the last non-NOP command, `EFLAG` is set by every rejection, and reset
clears both. -/
def Obligations.ErrAndEflagRecordTheCommand : Prop :=
  ∀ s t : State, step s = .next t →
    (s.port.rst = true → t.errOut = 0 ∧ t.EFLAG = false)
    ∧ (s.port.rst = false → Safety.presents s.port = false → t.ERR = s.ERR ∧ t.EFLAG = s.EFLAG)
    ∧ (s.port.rst = false → Safety.presents s.port = true →
        let code : BitVec 3 :=
          if 3 ≤ (opField s.port.cmd).toNat then 2
          else if s.busy then 3
          else if lenField s.port.cmd ≠ 16 then 1
          else if opField s.port.cmd = 2 ∧ s.KVALID = false then 4
          else 0
        t.errOut = code ∧ t.EFLAG = (s.EFLAG || code != 0))

/-- 10_state.md R21, R23: who writes `S`, and who writes which byte of `RK`, in a step that is no reset. -/
def Obligations.DataRegistersHaveOneWriter : Prop :=
  ∀ s t : State, s.port.rst = false → step s = .next t →
    (t.S ≠ s.S →
      (s.port.cmdValid = true ∧ s.port.cmd = 0x50#8 ∧ s.busy = false ∧ s.KVALID = true ∧ t.S = s.port.din)
      ∨ s.PHASE = .initial ∨ s.PHASE = .round ∨ s.PHASE = .final)
    ∧ ∀ a, a < 176 → rkByte t.RK a ≠ rkByte s.RK a →
      (s.port.cmdValid = true ∧ s.port.cmd = 0x30#8 ∧ s.busy = false ∧ a < 16 ∧ s.port.din[a]? = some (rkByte t.RK a))
      ∨ (s.PHASE = .kexp ∧ a / 4 = s.KI.toNat)

/-- 44_cipher_driver.md R164: no step of an encryption, and no `SEQ_DONE` or `SEQ_IDLE` step, writes `RK`, `KI` or `KVALID`. -/
def Obligations.EncryptionNeverMutatesTheSchedule : Prop :=
  ∀ s t : State, s.port.rst = false → s.PHASE ≠ .kexp →
    ¬ (s.port.cmdValid = true ∧ s.port.cmd = 0x30#8 ∧ s.busy = false) → step s = .next t →
    t.RK = s.RK ∧ t.KI = s.KI ∧ t.KVALID = s.KVALID

/-- 10_state.md R32, R36, 60_exceptions.md R193: the outputs and the taps are functions of the registers. -/
def Obligations.OutputsAndTapsShowTheRegisters : Prop :=
  ∀ s : State,
    (s.busy = true ↔ s.PHASE = .kexp ∨ s.PHASE = .initial ∨ s.PHASE = .round ∨ s.PHASE = .final)
    ∧ (s.done = true ↔ s.PHASE = .done) ∧ (s.busy = false ∧ s.done = false ↔ s.PHASE = .idle)
    ∧ s.kvalidOut = s.KVALID ∧ s.eflagOut = s.EFLAG
    ∧ (s.errOut = 0 ↔ s.ERR = .accepted) ∧ (s.errOut = 1 ↔ s.ERR = .rejected .invalidLength)
    ∧ (s.errOut = 2 ↔ s.ERR = .rejected .illegalCommand) ∧ (s.errOut = 3 ↔ s.ERR = .rejected .busy)
    ∧ (s.errOut = 4 ↔ s.ERR = .rejected .noKey)
    ∧ (∀ i : Fin 16, s.dout[i] = s.S[i] ∧ s.tapState[i] = s.S[i])
    ∧ (∀ (r : Fin 11) (i : Fin 16), (s.tapRk r)[i] = rkByte s.RK (16 * r.val + i.val))
    ∧ s.tapRnd = s.RND ∧ s.tapKi = s.KI ∧ s.tapPhase = phaseCode s.PHASE
    ∧ s.tapSb = roundFn 0b1000 s.S s.S ∧ s.tapSr = roundFn 0b1100 s.S s.S ∧ s.tapMc = roundFn 0b1110 s.S s.S

/-! ### Commands -/

/-- 44_cipher_driver.md R152: `NOP` is `SeqOp`, with any `LEN`, and writes no flag. -/
def Obligations.NopRunsTheSequencer : Prop :=
  ∀ (len : BitVec 5) (s : State), s.wf →
    ∃ i t, decode (.seq (phaseCode s.PHASE)) = .ok i ∧ exec (.nop len) s = .next t ∧ exec i s = .next t
      ∧ t.ERR = s.ERR ∧ t.EFLAG = s.EFLAG

/-- 42_key_schedule.md R118: `KX_LOAD`, by itself in any state, and as what an accepted `EXPAND_KEY` does after it
recorded code 0 (44_cipher_driver.md R150, R153). -/
def Obligations.ExpandKeyLoadsTheKey : Prop :=
  ∀ (din : Block) (s : State), ∃ k : Schedule,
    exec (.kxLoad din) s = .next { s with RK := k, KI := 4, KVALID := false, PHASE := .kexp }
    ∧ (s.busy = false → exec (.expandKey 16 din) s =
        .next { s with RK := k, KI := 4, KVALID := false, PHASE := .kexp, ERR := .accepted })
    ∧ (∀ i : Fin 16, rkByte k i.val = din[i]) ∧ (∀ a, 16 ≤ a → rkByte k a = rkByte s.RK a)
    ∧ ∀ c : Fin 4, rkWord k c.val = word din[4 * c.val] din[4 * c.val + 1] din[4 * c.val + 2] din[4 * c.val + 3]

/-- 44_cipher_driver.md R154: `ENC_LOAD`, by itself in any state, and as what an accepted `ENCRYPT_BLOCK` does. -/
def Obligations.EncryptBlockLoadsThePlaintext : Prop :=
  ∀ (din : Block) (s : State), ∃ b : Block,
    exec (.encLoad din) s = .next { s with ERR := .accepted, S := b, RND := 0, PHASE := .initial }
    ∧ (s.busy = false → s.KVALID = true → exec (.encryptBlock 16 din) s =
        .next { s with ERR := .accepted, S := b, RND := 0, PHASE := .initial })
    ∧ (∀ i : Fin 16, b[i] = din[i]) ∧ ∀ i : Fin 16, matrixByte b ⟨i.val % 4, by omega⟩ ⟨i.val / 4, by omega⟩ = din[i]

/-- 60_exceptions.md R185: one code is recorded, that of the first cause in the order `IllegalCommand`, `Busy`,
`InvalidLength`, `NoKey`; then the micro-operation of the step runs (44_cipher_driver.md R150). -/
def Obligations.RejectionsFollowThePriority : Prop :=
  ∀ s : State,
    let rejects (i : Instr) (k : Rejection) : Prop :=
      exec i s = exec (.nop 0) { s with ERR := .rejected k, EFLAG := true }
    (∀ len, rejects (.reservedOp3 len) .illegalCommand)
    ∧ (∀ opLow len, rejects (.reservedOp47 opLow len) .illegalCommand)
    ∧ (∀ len din, s.busy = true →
        rejects (.expandKey len din) .busy ∧ rejects (.encryptBlock len din) .busy)
    ∧ (∀ len din, s.busy = false → len ≠ 16 →
        rejects (.expandKey len din) .invalidLength ∧ rejects (.encryptBlock len din) .invalidLength)
    ∧ (∀ din, s.busy = false → s.KVALID = false → rejects (.encryptBlock 16 din) .noKey)
    ∧ (∀ din, s.busy = true → rejects (decodeCmd 0x7F din) .illegalCommand ∧ rejects (decodeCmd 0x2F din) .busy)
    ∧ (∀ din, s.busy = false → s.KVALID = false → rejects (decodeCmd 0x4F din) .invalidLength)

/-- 60_exceptions.md R182: a reserved operation code completes as an `IllegalCommand` rejection in every legal state. -/
def Obligations.ReservedCommandsAreIllegal : Prop :=
  ∀ (opLow : BitVec 2) (len : BitVec 5) (s : State), s.wf →
    (∃ t, exec (.reservedOp3 len) s = .next t ∧ t.errOut = 2 ∧ t.EFLAG = true)
    ∧ ∃ t, exec (.reservedOp47 opLow len) s = .next t ∧ t.errOut = 2 ∧ t.EFLAG = true

/-- 60_exceptions.md R186: a rejection writes `ERR` and `EFLAG` and nothing else. The step with the rejected command
leaves what the step with no command would leave, but for these two. -/
def Obligations.RejectionDisturbsNothing : Prop :=
  ∀ (s t u : State) (p q : PortSample) (rest : List PortSample),
    p.rst = false → q.rst = false → q.cmdValid = false →
    step (s.offer (q :: rest)) = .next t → step (s.offer (p :: rest)) = .next u →
    Safety.presents p = true → u.ERR ≠ .accepted →
    u = { t with ERR := u.ERR, EFLAG := true }

/-! ### The sequencer -/

/-- 44_cipher_driver.md R155, R160: `SEQ_IDLE` and `SEQ_DONE` change no register. -/
def Obligations.IdleAndDoneChangeNothing : Prop :=
  ∀ s : State, (s.PHASE = .idle → exec .seqIdle s = .next s) ∧ (s.PHASE = .done → exec .seqDone s = .next s)

/-- A sequencer micro-operation that is not the one `PHASE` selects, or whose counter is outside its precondition, has no
step (10_state.md R29, 93_implementation_defined.md I8; that the row alone stops so is the model's choice,
notes/assumptions/9.md). -/
def Obligations.UnselectedMicroOperationsStop : Prop :=
  ∀ s : State,
    (s.PHASE ≠ .idle → exec .seqIdle s = .fault .stuck) ∧ (s.PHASE ≠ .done → exec .seqDone s = .fault .stuck)
    ∧ (¬ (s.PHASE = .kexp ∧ 4 ≤ s.KI.toNat ∧ s.KI.toNat ≤ 43) →
        exec .seqKexp s = .fault .stuck ∧ exec .kxStep s = .fault .stuck)
    ∧ (¬ (s.PHASE = .initial ∧ s.RND.toNat = 0) → exec .seqInitial s = .fault .stuck)
    ∧ (¬ (s.PHASE = .round ∧ 1 ≤ s.RND.toNat ∧ s.RND.toNat ≤ 9) → exec .seqRound s = .fault .stuck)
    ∧ (¬ (s.PHASE = .final ∧ s.RND.toNat = 10) → exec .seqFinal s = .fault .stuck)

/-- 42_key_schedule.md R119, 44_cipher_driver.md R156: `KX_STEP`, by itself and as the micro-operation of `KEXP`. -/
def Obligations.KxStepWritesOneWord : Prop :=
  ∀ s : State, s.PHASE = .kexp → 4 ≤ s.KI.toNat → s.KI.toNat ≤ 43 →
    ∃ k : Schedule,
      exec .kxStep s = .next { s with RK := k, KI := s.KI + 1, KVALID := if s.KI.toNat = 43 then true else s.KVALID, PHASE := if s.KI.toNat = 43 then .idle else .kexp }
      ∧ exec .seqKexp s = exec .kxStep s
      ∧ rkWord k s.KI.toNat = nextWord s.KI.toNat (rkWord s.RK (s.KI.toNat - 1)) (rkWord s.RK (s.KI.toNat - 4))
      ∧ ∀ a, a < 176 → rkByte k a =
          if a / 4 = s.KI.toNat then
            byteOf (a % 4) (nextWord s.KI.toNat (rkWord s.RK (s.KI.toNat - 1)) (rkWord s.RK (s.KI.toNat - 4)))
          else rkByte s.RK a

/-- 44_cipher_driver.md R157. -/
def Obligations.SeqInitialAddsRoundKeyZero : Prop :=
  (∀ s : State, s.PHASE = .initial → s.RND = 0 →
    exec .seqInitial s = .next { s with S := addRoundKey s.S (rkRoundKey s.RK 0), RND := 1, PHASE := .round }
    ∧ addRoundKey s.S (rkRoundKey s.RK 0) = roundFn 0b0001 s.S (rkRoundKey s.RK 0))
  ∧ addRoundKey (ofBus 0x00112233445566778899aabbccddeeff) (ofBus 0x000102030405060708090a0b0c0d0e0f)
      = ofBus 0x00102030405060708090a0b0c0d0e0f0

/-- 44_cipher_driver.md R158. -/
def Obligations.SeqRoundAppliesAllStages : Prop :=
  (∀ s : State, s.PHASE = .round → 1 ≤ s.RND.toNat → s.RND.toNat ≤ 9 →
    let x := addRoundKey (mixColumns (shiftRows (subBytes s.S))) (rkRoundKey s.RK s.RND.toNat)
    exec .seqRound s =
      .next { s with S := x, PHASE := if s.RND.toNat = 9 then .final else .round, RND := s.RND + 1 }
    ∧ x = roundFn 0b1111 s.S (rkRoundKey s.RK s.RND.toNat))
  ∧ roundFn 0b1111 (ofBus 0x00102030405060708090a0b0c0d0e0f0) (ofBus 0xd6aa74fdd2af72fadaa678f1d6ab76fe)
      = ofBus 0x89d810e8855ace682d1843d8cb128fe4

/-- 44_cipher_driver.md R159. -/
def Obligations.SeqFinalOmitsColumnMixing : Prop :=
  (∀ s : State, s.PHASE = .final → s.RND.toNat = 10 →
    let x := addRoundKey (shiftRows (subBytes s.S)) (rkRoundKey s.RK 10)
    ∃ t : State, exec .seqFinal s = .next t ∧ t = { s with S := x, PHASE := .done }
      ∧ x = roundFn 0b1101 s.S (rkRoundKey s.RK 10) ∧ t.done = true ∧ t.busy = false ∧ t.dout = x)
  ∧ roundFn 0b1101 (ofBus 0xbd6e7c3df2b5779e0b61216e8b10b689) (ofBus 0x13111d7fe3944a17f307a78b4d2b30c5)
      = ofBus 0x69c4e0d86a7b0430d8cdb78070b4c55a

/-! ### The round pipeline -/

/-- 43_round_transforms.md R130: `SUB_BYTES`, every byte by itself; it commutes with `ShiftRows`. The stage row by itself
writes the result back to `S` (the model's choice, notes/assumptions/6.md). -/
def Obligations.SubBytesReplacesEveryByte : Prop :=
  (∀ s : State, ∃ b : Block, exec .subBytes s = .next { s with S := b } ∧ ∀ i : Fin 16, b[i] = sboxRead s.S[i])
  ∧ (∀ s : Block, subBytes (shiftRows s) = shiftRows (subBytes s))
  ∧ ∀ i : Fin 16, (subBytes noOperand)[i] = 0x63

/-- 43_round_transforms.md R131, R132: `SHIFT_ROWS`, row r left by r. The stage row by itself writes the result back
to `S` (the model's choice, notes/assumptions/6.md). -/
def Obligations.ShiftRowsRotatesRowR : Prop :=
  (∀ s : State, ∃ b : Block, exec .shiftRows s = .next { s with S := b }
    ∧ (∀ r c : Fin 4, matrixByte b r c = matrixByte s.S r (c + r)) ∧ ∀ i : Fin 16, b[i] = s.S[5 * i])
  ∧ ∀ s : Block, shiftRows (shiftRows (shiftRows (shiftRows s))) = s

/-- 43_round_transforms.md R133: `MIXCOLUMN` is the product with the circulant matrix, over GF(2^8). The result is
shown on the model's own field `wire` (the model's choice, notes/assumptions/5.md). -/
def Obligations.MixColumnIsTheMatrixProduct : Prop :=
  ∀ (c : Column) (s : State), ∃ d : Column, exec (.mixColumn c) s = .next { s with wire := .column d }
    ∧ ∀ r : Fin 4, columnRow d r =
        gmul ((Config.mixMatrix[r.val]).getD 0 0) c.s0 ^^^ gmul ((Config.mixMatrix[r.val]).getD 1 0) c.s1
          ^^^ gmul ((Config.mixMatrix[r.val]).getD 2 0) c.s2 ^^^ gmul ((Config.mixMatrix[r.val]).getD 3 0) c.s3

/-- 43_round_transforms.md R135: `MIX_COLUMNS`, each column by itself. The stage row by itself writes the result back to
`S` (the model's choice, notes/assumptions/6.md). -/
def Obligations.MixColumnsMixesEachColumn : Prop :=
  ∀ s : State, ∃ b : Block, exec .mixColumns s = .next { s with S := b }
    ∧ ∀ c : Fin 4, matrixColumn b c = mixColumn (matrixColumn s.S c)

/-- 43_round_transforms.md R136: column mixing is linear. -/
def Obligations.ColumnMixingIsLinear : Prop :=
  (∀ a b : Column, mixColumn ⟨a.s0 ^^^ b.s0, a.s1 ^^^ b.s1, a.s2 ^^^ b.s2, a.s3 ^^^ b.s3⟩ =
    ⟨(mixColumn a).s0 ^^^ (mixColumn b).s0, (mixColumn a).s1 ^^^ (mixColumn b).s1,
      (mixColumn a).s2 ^^^ (mixColumn b).s2, (mixColumn a).s3 ^^^ (mixColumn b).s3⟩)
  ∧ ∀ A B : Block, mixColumns (addRoundKey A B) = addRoundKey (mixColumns A) (mixColumns B)

/-- 43_round_transforms.md R134: `ADD_ROUND_KEY` with the round key `RND` names; the same key twice restores the state,
and the two operands may be swapped. The stage row by itself writes the result back to `S` (the model's choice,
notes/assumptions/6.md). -/
def Obligations.AddRoundKeyXorsByteForByte : Prop :=
  (∀ s : State, s.RND.toNat ≤ 10 → ∃ b : Block, exec .addRoundKey s = .next { s with S := b }
    ∧ (∀ i : Fin 16, b[i] = s.S[i] ^^^ rkByte s.RK (16 * s.RND.toNat + i.val))
    ∧ ∀ r c : Fin 4, matrixByte b r c = matrixByte s.S r c ^^^ byteOf r.val (rkWord s.RK (4 * s.RND.toNat + c.val)))
  ∧ ∀ s k : Block, addRoundKey (addRoundKey s k) k = s ∧ addRoundKey s k = addRoundKey k s

/-- 43_round_transforms.md R137: `ROUNDFN` on every stage-enable word. The result is shown on the model's own field
`wire` (the model's choice, notes/assumptions/5.md). -/
def Obligations.RoundFnComposesTheEnabledStages : Prop :=
  ∀ (ctl : BitVec 4) (b k : Block) (s : State),
    let stage (n : Nat) (f : Block → Block) (x : Block) : Block := if ctl.getLsbD n = true then f x else x
    exec (.roundFn ctl b k) s = .next { s with wire := .block (stage 0 (fun x => addRoundKey x k) (stage 1 mixColumns (stage 2 shiftRows (stage 3 subBytes b)))) }
    ∧ roundFn 0b0001 b k = addRoundKey b k
    ∧ roundFn 0b1111 b k = addRoundKey (mixColumns (shiftRows (subBytes b))) k
    ∧ roundFn 0b1101 b k = addRoundKey (shiftRows (subBytes b)) k

/-- 30_encoding.md R75: running, one after the other, the stages a stage-enable word enables is `RoundFn` of that
word. That a stage row by itself writes `S` is the model's choice (notes/assumptions/6.md). -/
def Obligations.StageWordRunsItsStagesInOrder : Prop :=
  ∀ (ctl : BitVec 4) (s : State), s.RND.toNat ≤ 10 →
    (rctlStages ctl).foldl (fun (o : Host.Outcome State Fault Refusal) i =>
        match o with
        | .next u => exec i u
        | .fault r => .fault r
        | .refused r => .refused r) (.next s)
      = .next { s with S := roundFn ctl s.S (rkRoundKey s.RK s.RND.toNat) }

/-- 44_cipher_driver.md R162: `ENCRYPT_BLOCK_FN`, and the known answer. The result is shown on the model's own field
`wire` (the model's choice, notes/assumptions/5.md). -/
def Obligations.EncryptBlockFnIsTheCipher : Prop :=
  (∀ (P : Block) (sched : Schedule) (s : State), ∃ X : Nat → Block,
    X 0 = addRoundKey P (rkRoundKey sched 0)
    ∧ (∀ r, 1 ≤ r → r ≤ 9 → X r = addRoundKey (mixColumns (shiftRows (subBytes (X (r - 1))))) (rkRoundKey sched r))
    ∧ exec (.encryptBlockFn P sched) s =
        .next { s with wire := .block (addRoundKey (shiftRows (subBytes (X 9))) (rkRoundKey sched 10)) })
  ∧ ∀ s : State, exec (.encryptBlockFn (ofBus 0x00112233445566778899aabbccddeeff) (expandKey (ofBus 0x000102030405060708090a0b0c0d0e0f))) s =
      .next { s with wire := .block (ofBus 0x69c4e0d86a7b0430d8cdb78070b4c55a) }

/-! ### The GF(2^8) multiplier -/

/-- 40_gf_multiplier.md R90: the product is the XOR, over the set bits i of `b`, of `a` multiplied i times by x
modulo x^8 + x^4 + x^3 + x + 1. The result is shown on the model's own field `wire` (the model's choice,
notes/assumptions/5.md). -/
def Obligations.GfmulIsTheFieldProduct : Prop :=
  ∀ (a b : Byte) (s : State),
    let timesX (x : Byte) : Byte := if x.getLsbD 7 = true then (x <<< 1) ^^^ 0x1B#8 else x <<< 1
    exec (.gfmul a b) s = .next { s with wire := .byte ((List.range 8).foldl (fun p i => p ^^^ (if b.getLsbD i = true then timesX^[i] a else 0)) 0) }

/-- 40_gf_multiplier.md R92, R93: the identities the source requires, the field laws, and the powers of 2. -/
def Obligations.FieldLaws : Prop :=
  (∀ x : Byte, gmul x 0 = 0) ∧ (∀ x : Byte, gmul x 1 = x) ∧ (∀ a b : Byte, gmul a b = gmul b a)
  ∧ (∀ a b c : Byte, gmul (a ^^^ c) b = gmul a b ^^^ gmul c b)
  ∧ (∀ a b c : Byte, gmul a (b ^^^ c) = gmul a b ^^^ gmul a c)
  ∧ (∀ a b c : Byte, gmul (gmul a b) c = gmul a (gmul b c))
  ∧ (∀ x : Byte, x ≠ 0 → ∃! y : Byte, gmul x y = 1)
  ∧ (∀ a b : Byte, gmul a b = 0 → a = 0 ∨ b = 0)
  ∧ (List.range 16).map (fun n => Machine.xtime^[n] 1) =
      [0x01, 0x02, 0x04, 0x08, 0x10, 0x20, 0x40, 0x80, 0x1B, 0x36, 0x6C, 0xD8, 0xAB, 0x4D, 0x9A, 0x2F]
  ∧ ∀ i : Fin 10, byteOf 0 (rconRead (i.val + 1)) = Machine.xtime^[i.val] 1

/-- 40_gf_multiplier.md R91: `XTIME`, and the three multiplications column mixing needs. The result is shown on the
model's own field `wire` (the model's choice, notes/assumptions/5.md). -/
def Obligations.XtimeShiftsAndReduces : Prop :=
  (∀ (a : Byte) (s : State), exec (.xtime a) s =
      .next { s with wire := .byte ((a <<< 1) ^^^ (if a.getLsbD 7 = true then 0x1B#8 else 0x00#8)) }
    ∧ exec (.xtime a) s = exec (.gfmul a 2) s)
  ∧ (∀ a : Byte, gmul a 3 = gmul a 2 ^^^ a ∧ gmul a 1 = a)
  ∧ gmul 0x00 2 = 0x00 ∧ gmul 0x80 2 = 0x1B ∧ gmul 0xFF 2 = 0xE5 ∧ gmul 0x7F 2 = 0xFE ∧ gmul 0x57 2 = 0xAE

/-! ### The S-box ROM -/

/-- 41_sbox_rom.md R100, 20_memory.md R57: `SBOX` reads the grid at the row of the high nibble and the column of the
low nibble, linear address `x`. The result is shown on the model's own field `wire` (the model's choice,
notes/assumptions/5.md). -/
def Obligations.SboxReadsTheGrid : Prop :=
  ∀ (x : Byte) (s : State), ∃ y : Byte, exec (.sbox x) s = .next { s with wire := .byte y }
    ∧ (sboxRowsLow ++ sboxRowsHigh)[(x >>> 4).toNat]?.bind (fun row => row[(x &&& 0x0F#8).toNat]?) = some y.toNat
    ∧ (sboxRowsLow ++ sboxRowsHigh).flatten[x.toNat]? = some y.toNat

/-- 41_sbox_rom.md R104: a bijection with no fixed and no opposite fixed point. -/
def Obligations.SboxIsABijectionWithoutFixedPoints : Prop :=
  Function.Bijective sboxRead ∧ (∀ x : Byte, sboxRead x ≠ x ∧ sboxRead x ≠ x ^^^ 0xFF#8)
  ∧ sboxRead 0x00 = 0x63 ∧ sboxRead 0x00 ≠ 0x00

/-- 41_sbox_rom.md R103: the algebraic construction gives the same table. -/
def Obligations.SboxIsTheAffineImageOfTheInverse : Prop :=
  ∀ x v : Byte, (x = 0 ∧ v = 0) ∨ (x ≠ 0 ∧ gmul x v = 1) →
    sboxRead x = v ^^^ v.rotateLeft 1 ^^^ v.rotateLeft 2 ^^^ v.rotateLeft 3 ^^^ v.rotateLeft 4 ^^^ 0x63#8

/-! ### The key schedule -/

/-- 42_key_schedule.md R110. The result is shown on the model's own field `wire` (the model's choice,
notes/assumptions/5.md). -/
def Obligations.RotWordRotatesByOneByte : Prop :=
  (∀ (w : Word) (s : State), exec (.rotWord w) s = .next { s with wire := .word ((w <<< 8) ||| (w >>> 24)) })
  ∧ (∀ b0 b1 b2 b3 : Byte, rotWord (word b0 b1 b2 b3) = word b1 b2 b3 b0)
  ∧ (∀ b : Byte, rotWord (word b b b b) = word b b b b) ∧ (∀ w : Word, rotWord (rotWord (rotWord (rotWord w))) = w)
  ∧ rotWord 0x0c0d0e0f = 0x0d0e0f0c

/-- 42_key_schedule.md R111. The result is shown on the model's own field `wire` (the model's choice,
notes/assumptions/5.md). -/
def Obligations.SubWordSubstitutesEachByte : Prop :=
  (∀ (b0 b1 b2 b3 : Byte) (s : State), exec (.subWord (word b0 b1 b2 b3)) s =
    .next { s with wire := .word (word (sboxRead b0) (sboxRead b1) (sboxRead b2) (sboxRead b3)) })
  ∧ (∀ (w : Word) (s : State), ∃ v, exec (.subWord w) s = .next { s with wire := .word v }
      ∧ ∀ j : Fin 4, byteOf j.val v = sboxRead (byteOf j.val w))
  ∧ (∀ w : Word, subWord (rotWord w) = rotWord (subWord w))
  ∧ subWord 0x00000000 = 0x63636363 ∧ subWord 0x0d0e0f0c = 0xd7ab76fe

/-- 42_key_schedule.md R112: the entries 1 to 10; entry 0 reads as the open value `RCON0`, whatever it is (the
model's choice that the address can be read, notes/assumptions/2.md). The result is shown on the model's own field
`wire` (the model's choice, notes/assumptions/5.md). -/
def Obligations.RconHoldsThePowersOfTwo : Prop :=
  (∀ (i : BitVec 4) (s : State), 1 ≤ i.toNat → i.toNat ≤ 10 →
    ∃ v : Word, exec (.rcon i) s = .next { s with wire := .word v }
      ∧ [0x01000000, 0x02000000, 0x04000000, 0x08000000, 0x10000000, 0x20000000, 0x40000000, 0x80000000, 0x1b000000,
          0x36000000][i.toNat - 1]? = some v
      ∧ v = word ((gmul 2)^[i.toNat - 1] 1) 0 0 0)
  ∧ ∀ s : State, ∃ v : Word, exec (.rcon 0) s = .next { s with wire := .word v }

/-- 42_key_schedule.md R113. The result is shown on the model's own field `wire` (the model's choice,
notes/assumptions/5.md). -/
def Obligations.KeyWordsAreTheColumns : Prop :=
  (∀ (K : Block) (s : State), exec (.keyWords K) s = .next { s with wire := .keyWords (word K[0] K[1] K[2] K[3]) (word K[4] K[5] K[6] K[7]) (word K[8] K[9] K[10] K[11]) (word K[12] K[13] K[14] K[15]) })
  ∧ ∀ s : State, exec (.keyWords (ofBus 0x000102030405060708090a0b0c0d0e0f)) s =
      .next { s with wire := .keyWords 0x00010203 0x04050607 0x08090a0b 0x0c0d0e0f }

/-- 42_key_schedule.md R114. The result is shown on the model's own field `wire` (the model's choice,
notes/assumptions/5.md). -/
def Obligations.NextWordIsTheRecurrence : Prop :=
  (∀ (i : BitVec 6) (prev back : Word) (s : State), 4 ≤ i.toNat → i.toNat ≤ 43 →
    ∃ v : Word, exec (.nextWord i prev back) s = .next { s with wire := .word v }
      ∧ (i.toNat % 4 ≠ 0 → v = back ^^^ prev)
      ∧ (i.toNat % 4 = 0 → ∃ c, rconRom (i.toNat / 4) = some c ∧ v = back ^^^ (subWord (rotWord prev) ^^^ c)))
  ∧ nextWord 4 0x0c0d0e0f 0x00010203 = 0xd6aa74fd ∧ nextWord 5 0xd6aa74fd 0x04050607 = 0xd2af72fa

/-- Where a datapath row is asked for an entry its memory does not have, it stops (20_memory.md R56, R60; the model's
choice, notes/assumptions/2.md). -/
def Obligations.MissingEntriesStop : Prop :=
  (∀ (i : BitVec 4) (s : State), 10 < i.toNat → exec (.rcon i) s = .fault .noSuchEntry)
  ∧ (∀ (i : BitVec 6) (prev back : Word) (s : State), i.toNat < 4 ∨ 43 < i.toNat →
      exec (.nextWord i prev back) s = .fault .noSuchEntry)
  ∧ ∀ s : State, 10 < s.RND.toNat → exec .addRoundKey s = .fault .noSuchEntry

/-- 42_key_schedule.md R115: `EXPAND_KEY_FN`. The result is shown on the model's own field `wire` (the model's
choice, notes/assumptions/5.md). -/
def Obligations.ExpandKeyFnIsTheSchedule : Prop :=
  ∀ (K : Block) (s : State), ∃ k : Schedule, exec (.expandKeyFn K) s = .next { s with wire := .schedule k }
    ∧ (∀ i : Fin 16, rkByte k i.val = K[i])
    ∧ ∀ i, 4 ≤ i → i ≤ 43 → rkWord k i = nextWord i (rkWord k (i - 1)) (rkWord k (i - 4))

/-- 42_key_schedule.md R116: round key 0 is the key, and round key r comes from round key r - 1 and round constant r. -/
def Obligations.RoundKeysFollowFromTheOneBefore : Prop :=
  ∀ K : Block,
    (∀ i : Fin 16, rkByte (expandKey K) i.val = K[i])
    ∧ ∀ r, 1 ≤ r → r ≤ 10 → ∃ c, rconRom r = some c
      ∧ rkWord (expandKey K) (4 * r) =
          rkWord (expandKey K) (4 * (r - 1)) ^^^ subWord (rotWord (rkWord (expandKey K) (4 * (r - 1) + 3))) ^^^ c
      ∧ rkWord (expandKey K) (4 * r + 1) = rkWord (expandKey K) (4 * (r - 1) + 1) ^^^ rkWord (expandKey K) (4 * r)
      ∧ rkWord (expandKey K) (4 * r + 2) = rkWord (expandKey K) (4 * (r - 1) + 2) ^^^ rkWord (expandKey K) (4 * r + 1)
      ∧ rkWord (expandKey K) (4 * r + 3) = rkWord (expandKey K) (4 * (r - 1) + 3) ^^^ rkWord (expandKey K) (4 * r + 2)

/-! ### The machine and the functions agree -/

/-- 44_cipher_driver.md R166: 40 steps after an accepted `EXPAND_KEY` the round-key RAM holds the schedule of the key,
whatever commands the host presented meanwhile. -/
def Obligations.KeyExpansionEqualsItsFunction : Prop :=
  ∀ (s : State) (p : PortSample) (rest : List PortSample),
    s.wf → s.inputs = p :: rest → p.rst = false → p.cmdValid = true → p.cmd = 0x30#8 → s.busy = false →
    Safety.noReset (rest.take 40) →
    ∃ t : State, Host.Core.run Sys2Proof.core 41 s = .next t
      ∧ (∀ i, i ≤ 43 → rkWord t.RK i = expandWord p.din i) ∧ t.RK = expandKey p.din
      ∧ t.KVALID = true ∧ t.KI.toNat = 44 ∧ t.PHASE = .idle ∧ t.S = s.S ∧ t.RND = s.RND
      ∧ ((∀ q ∈ rest.take 40, Safety.presents q = false) → t.ERR = .accepted)

/-- 44_cipher_driver.md R167: 11 steps after an accepted `ENCRYPT_BLOCK` the state register holds the ciphertext, and
before that the state of each round. -/
def Obligations.EncryptionEqualsItsFunction : Prop :=
  ∀ (s : State) (p : PortSample) (rest : List PortSample),
    s.wf → s.inputs = p :: rest → p.rst = false → p.cmdValid = true → p.cmd = 0x50#8 → s.busy = false → s.KVALID = true →
    Safety.noReset (rest.take 11) →
    (∃ t : State, Host.Core.run Sys2Proof.core 12 s = .next t ∧ t.S = encryptBlock p.din s.RK ∧ t.dout = encryptBlock p.din s.RK
      ∧ t.PHASE = .done ∧ t.RND.toNat = 10 ∧ t.RK = s.RK ∧ t.KI = s.KI ∧ t.KVALID = s.KVALID)
    ∧ ∀ j, 1 ≤ j → j ≤ 10 → ∃ t : State, Host.Core.run Sys2Proof.core (j + 1) s = .next t ∧ t.S = encryptRounds p.din s.RK (j - 1)

/-- 44_cipher_driver.md R165: an accepted `EXPAND_KEY` keeps the engine busy for exactly 40 sequencer steps and an
accepted `ENCRYPT_BLOCK` for exactly 11, whatever commands come meanwhile. -/
def Obligations.OperationsTakeTheirStepCounts : Prop :=
  ∀ (s : State) (p : PortSample) (rest : List PortSample),
    s.wf → s.inputs = p :: rest → p.rst = false → p.cmdValid = true → s.busy = false →
    (p.cmd = 0x30#8 → Safety.noReset (rest.take 40) →
      (∀ n, n ≤ 39 → ∃ t : State, Host.Core.run Sys2Proof.core (n + 1) s = .next t ∧ t.busy = true)
      ∧ ∃ t : State, Host.Core.run Sys2Proof.core 41 s = .next t ∧ t.busy = false ∧ t.kvalidOut = true)
    ∧ (p.cmd = 0x50#8 → s.KVALID = true → Safety.noReset (rest.take 11) →
      (∀ n, n ≤ 10 → ∃ t : State, Host.Core.run Sys2Proof.core (n + 1) s = .next t ∧ t.busy = true)
      ∧ ∃ t : State, Host.Core.run Sys2Proof.core 12 s = .next t ∧ t.done = true)
end

