-- ==== Sys2Proof/Laws/State.lean ====
section
/-! SUPPORT. Laws/State.lean: what each update of the state does to each field, and what an update leaves of the
derived flags. -/

namespace Sys2Proof.Machine

variable (s : State)

/-! `writeS` -/

@[simp] theorem State.writeS_S (b : Block) : (s.writeS b).S = b := rfl
@[simp] theorem State.writeS_RK (b : Block) : (s.writeS b).RK = s.RK := rfl
@[simp] theorem State.writeS_PHASE (b : Block) : (s.writeS b).PHASE = s.PHASE := rfl
@[simp] theorem State.writeS_RND (b : Block) : (s.writeS b).RND = s.RND := rfl
@[simp] theorem State.writeS_KI (b : Block) : (s.writeS b).KI = s.KI := rfl
@[simp] theorem State.writeS_KVALID (b : Block) : (s.writeS b).KVALID = s.KVALID := rfl
@[simp] theorem State.writeS_ERR (b : Block) : (s.writeS b).ERR = s.ERR := rfl
@[simp] theorem State.writeS_EFLAG (b : Block) : (s.writeS b).EFLAG = s.EFLAG := rfl
@[simp] theorem State.writeS_inputs (b : Block) : (s.writeS b).inputs = s.inputs := rfl
@[simp] theorem State.writeS_wire (b : Block) : (s.writeS b).wire = s.wire := rfl
@[simp] theorem State.writeS_resets (b : Block) : (s.writeS b).resets = s.resets := rfl

/-! `drive` -/

@[simp] theorem State.drive_S (w : Wire) : (s.drive w).S = s.S := rfl
@[simp] theorem State.drive_RK (w : Wire) : (s.drive w).RK = s.RK := rfl
@[simp] theorem State.drive_PHASE (w : Wire) : (s.drive w).PHASE = s.PHASE := rfl
@[simp] theorem State.drive_RND (w : Wire) : (s.drive w).RND = s.RND := rfl
@[simp] theorem State.drive_KI (w : Wire) : (s.drive w).KI = s.KI := rfl
@[simp] theorem State.drive_KVALID (w : Wire) : (s.drive w).KVALID = s.KVALID := rfl
@[simp] theorem State.drive_ERR (w : Wire) : (s.drive w).ERR = s.ERR := rfl
@[simp] theorem State.drive_EFLAG (w : Wire) : (s.drive w).EFLAG = s.EFLAG := rfl
@[simp] theorem State.drive_inputs (w : Wire) : (s.drive w).inputs = s.inputs := rfl
@[simp] theorem State.drive_wire (w : Wire) : (s.drive w).wire = w := rfl
@[simp] theorem State.drive_resets (w : Wire) : (s.drive w).resets = s.resets := rfl

/-! `reject` -/

@[simp] theorem State.reject_S (k : Rejection) : (s.reject k).S = s.S := rfl
@[simp] theorem State.reject_RK (k : Rejection) : (s.reject k).RK = s.RK := rfl
@[simp] theorem State.reject_PHASE (k : Rejection) : (s.reject k).PHASE = s.PHASE := rfl
@[simp] theorem State.reject_RND (k : Rejection) : (s.reject k).RND = s.RND := rfl
@[simp] theorem State.reject_KI (k : Rejection) : (s.reject k).KI = s.KI := rfl
@[simp] theorem State.reject_KVALID (k : Rejection) : (s.reject k).KVALID = s.KVALID := rfl
@[simp] theorem State.reject_ERR (k : Rejection) : (s.reject k).ERR = .rejected k := rfl
@[simp] theorem State.reject_EFLAG (k : Rejection) : (s.reject k).EFLAG = true := rfl
@[simp] theorem State.reject_inputs (k : Rejection) : (s.reject k).inputs = s.inputs := rfl
@[simp] theorem State.reject_wire (k : Rejection) : (s.reject k).wire = s.wire := rfl
@[simp] theorem State.reject_resets (k : Rejection) : (s.reject k).resets = s.resets := rfl

/-! `accept` -/

@[simp] theorem State.accept_S : (s.accept).S = s.S := rfl
@[simp] theorem State.accept_RK : (s.accept).RK = s.RK := rfl
@[simp] theorem State.accept_PHASE : (s.accept).PHASE = s.PHASE := rfl
@[simp] theorem State.accept_RND : (s.accept).RND = s.RND := rfl
@[simp] theorem State.accept_KI : (s.accept).KI = s.KI := rfl
@[simp] theorem State.accept_KVALID : (s.accept).KVALID = s.KVALID := rfl
@[simp] theorem State.accept_ERR : (s.accept).ERR = .accepted := rfl
@[simp] theorem State.accept_EFLAG : (s.accept).EFLAG = s.EFLAG := rfl
@[simp] theorem State.accept_inputs : (s.accept).inputs = s.inputs := rfl
@[simp] theorem State.accept_wire : (s.accept).wire = s.wire := rfl
@[simp] theorem State.accept_resets : (s.accept).resets = s.resets := rfl

/-! `kxLoad` -/

@[simp] theorem State.kxLoad_S (din : Block) : (s.kxLoad din).S = s.S := rfl
@[simp] theorem State.kxLoad_RK (din : Block) : (s.kxLoad din).RK = rkLoad s.RK din := rfl
@[simp] theorem State.kxLoad_PHASE (din : Block) : (s.kxLoad din).PHASE = .kexp := rfl
@[simp] theorem State.kxLoad_RND (din : Block) : (s.kxLoad din).RND = s.RND := rfl
@[simp] theorem State.kxLoad_KI (din : Block) : (s.kxLoad din).KI = 4 := rfl
@[simp] theorem State.kxLoad_KVALID (din : Block) : (s.kxLoad din).KVALID = false := rfl
@[simp] theorem State.kxLoad_ERR (din : Block) : (s.kxLoad din).ERR = s.ERR := rfl
@[simp] theorem State.kxLoad_EFLAG (din : Block) : (s.kxLoad din).EFLAG = s.EFLAG := rfl
@[simp] theorem State.kxLoad_inputs (din : Block) : (s.kxLoad din).inputs = s.inputs := rfl
@[simp] theorem State.kxLoad_wire (din : Block) : (s.kxLoad din).wire = s.wire := rfl
@[simp] theorem State.kxLoad_resets (din : Block) : (s.kxLoad din).resets = s.resets := rfl

/-! `kxStep` -/

@[simp] theorem State.kxStep_S : (s.kxStep).S = s.S := rfl
@[simp] theorem State.kxStep_RK :
    (s.kxStep).RK = rkWriteWord s.RK s.KI.toNat
      (nextWord s.KI.toNat (rkWord s.RK (s.KI.toNat - 1)) (rkWord s.RK (s.KI.toNat - 4))) := rfl
@[simp] theorem State.kxStep_PHASE : (s.kxStep).PHASE = if s.KI.toNat = 43 then .idle else s.PHASE := rfl
@[simp] theorem State.kxStep_RND : (s.kxStep).RND = s.RND := rfl
@[simp] theorem State.kxStep_KI : (s.kxStep).KI = s.KI + 1 := rfl
@[simp] theorem State.kxStep_KVALID : (s.kxStep).KVALID = if s.KI.toNat = 43 then true else s.KVALID := rfl
@[simp] theorem State.kxStep_ERR : (s.kxStep).ERR = s.ERR := rfl
@[simp] theorem State.kxStep_EFLAG : (s.kxStep).EFLAG = s.EFLAG := rfl
@[simp] theorem State.kxStep_inputs : (s.kxStep).inputs = s.inputs := rfl
@[simp] theorem State.kxStep_wire : (s.kxStep).wire = s.wire := rfl
@[simp] theorem State.kxStep_resets : (s.kxStep).resets = s.resets := rfl

/-! `encLoad` -/

@[simp] theorem State.encLoad_S (din : Block) : (s.encLoad din).S = din := rfl
@[simp] theorem State.encLoad_RK (din : Block) : (s.encLoad din).RK = s.RK := rfl
@[simp] theorem State.encLoad_PHASE (din : Block) : (s.encLoad din).PHASE = .initial := rfl
@[simp] theorem State.encLoad_RND (din : Block) : (s.encLoad din).RND = 0 := rfl
@[simp] theorem State.encLoad_KI (din : Block) : (s.encLoad din).KI = s.KI := rfl
@[simp] theorem State.encLoad_KVALID (din : Block) : (s.encLoad din).KVALID = s.KVALID := rfl
@[simp] theorem State.encLoad_ERR (din : Block) : (s.encLoad din).ERR = .accepted := rfl
@[simp] theorem State.encLoad_EFLAG (din : Block) : (s.encLoad din).EFLAG = s.EFLAG := rfl
@[simp] theorem State.encLoad_inputs (din : Block) : (s.encLoad din).inputs = s.inputs := rfl
@[simp] theorem State.encLoad_wire (din : Block) : (s.encLoad din).wire = s.wire := rfl
@[simp] theorem State.encLoad_resets (din : Block) : (s.encLoad din).resets = s.resets := rfl

/-! `seqInitial` -/

@[simp] theorem State.seqInitial_S : (s.seqInitial).S = s.pipeline (phaseRctl .initial) := rfl
@[simp] theorem State.seqInitial_RK : (s.seqInitial).RK = s.RK := rfl
@[simp] theorem State.seqInitial_PHASE : (s.seqInitial).PHASE = .round := rfl
@[simp] theorem State.seqInitial_RND : (s.seqInitial).RND = 1 := rfl
@[simp] theorem State.seqInitial_KI : (s.seqInitial).KI = s.KI := rfl
@[simp] theorem State.seqInitial_KVALID : (s.seqInitial).KVALID = s.KVALID := rfl
@[simp] theorem State.seqInitial_ERR : (s.seqInitial).ERR = s.ERR := rfl
@[simp] theorem State.seqInitial_EFLAG : (s.seqInitial).EFLAG = s.EFLAG := rfl
@[simp] theorem State.seqInitial_inputs : (s.seqInitial).inputs = s.inputs := rfl
@[simp] theorem State.seqInitial_wire : (s.seqInitial).wire = s.wire := rfl
@[simp] theorem State.seqInitial_resets : (s.seqInitial).resets = s.resets := rfl

/-! `seqRound` -/

@[simp] theorem State.seqRound_S : (s.seqRound).S = s.pipeline (phaseRctl .round) := rfl
@[simp] theorem State.seqRound_RK : (s.seqRound).RK = s.RK := rfl
@[simp] theorem State.seqRound_PHASE : (s.seqRound).PHASE = if s.RND.toNat = 9 then .final else s.PHASE := rfl
@[simp] theorem State.seqRound_RND : (s.seqRound).RND = s.RND + 1 := rfl
@[simp] theorem State.seqRound_KI : (s.seqRound).KI = s.KI := rfl
@[simp] theorem State.seqRound_KVALID : (s.seqRound).KVALID = s.KVALID := rfl
@[simp] theorem State.seqRound_ERR : (s.seqRound).ERR = s.ERR := rfl
@[simp] theorem State.seqRound_EFLAG : (s.seqRound).EFLAG = s.EFLAG := rfl
@[simp] theorem State.seqRound_inputs : (s.seqRound).inputs = s.inputs := rfl
@[simp] theorem State.seqRound_wire : (s.seqRound).wire = s.wire := rfl
@[simp] theorem State.seqRound_resets : (s.seqRound).resets = s.resets := rfl

/-! `seqFinal` -/

@[simp] theorem State.seqFinal_S : (s.seqFinal).S = s.pipeline (phaseRctl .final) := rfl
@[simp] theorem State.seqFinal_RK : (s.seqFinal).RK = s.RK := rfl
@[simp] theorem State.seqFinal_PHASE : (s.seqFinal).PHASE = .done := rfl
@[simp] theorem State.seqFinal_RND : (s.seqFinal).RND = s.RND := rfl
@[simp] theorem State.seqFinal_KI : (s.seqFinal).KI = s.KI := rfl
@[simp] theorem State.seqFinal_KVALID : (s.seqFinal).KVALID = s.KVALID := rfl
@[simp] theorem State.seqFinal_ERR : (s.seqFinal).ERR = s.ERR := rfl
@[simp] theorem State.seqFinal_EFLAG : (s.seqFinal).EFLAG = s.EFLAG := rfl
@[simp] theorem State.seqFinal_inputs : (s.seqFinal).inputs = s.inputs := rfl
@[simp] theorem State.seqFinal_wire : (s.seqFinal).wire = s.wire := rfl
@[simp] theorem State.seqFinal_resets : (s.seqFinal).resets = s.resets := rfl

/-! `resetStep` -/

@[simp] theorem State.resetStep_S : (s.resetStep).S = resetBlock s.resets := rfl
@[simp] theorem State.resetStep_RK : (s.resetStep).RK = resetSchedule s.resets := rfl
@[simp] theorem State.resetStep_PHASE : (s.resetStep).PHASE = .idle := rfl
@[simp] theorem State.resetStep_RND : (s.resetStep).RND = 0 := rfl
@[simp] theorem State.resetStep_KI : (s.resetStep).KI = 0 := rfl
@[simp] theorem State.resetStep_KVALID : (s.resetStep).KVALID = false := rfl
@[simp] theorem State.resetStep_ERR : (s.resetStep).ERR = .accepted := rfl
@[simp] theorem State.resetStep_EFLAG : (s.resetStep).EFLAG = false := rfl
@[simp] theorem State.resetStep_inputs : (s.resetStep).inputs = s.inputs := rfl
@[simp] theorem State.resetStep_wire : (s.resetStep).wire = s.wire := rfl
@[simp] theorem State.resetStep_resets : (s.resetStep).resets = s.resets + 1 := rfl

/-! `sampled` -/

@[simp] theorem State.sampled_S : (s.sampled).S = s.S := rfl
@[simp] theorem State.sampled_RK : (s.sampled).RK = s.RK := rfl
@[simp] theorem State.sampled_PHASE : (s.sampled).PHASE = s.PHASE := rfl
@[simp] theorem State.sampled_RND : (s.sampled).RND = s.RND := rfl
@[simp] theorem State.sampled_KI : (s.sampled).KI = s.KI := rfl
@[simp] theorem State.sampled_KVALID : (s.sampled).KVALID = s.KVALID := rfl
@[simp] theorem State.sampled_ERR : (s.sampled).ERR = s.ERR := rfl
@[simp] theorem State.sampled_EFLAG : (s.sampled).EFLAG = s.EFLAG := rfl
@[simp] theorem State.sampled_inputs : (s.sampled).inputs = s.inputs.tail := rfl
@[simp] theorem State.sampled_wire : (s.sampled).wire = s.wire := rfl
@[simp] theorem State.sampled_resets : (s.sampled).resets = s.resets := rfl

/-! `offer` -/

@[simp] theorem State.offer_S (ps : List PortSample) : (s.offer ps).S = s.S := rfl
@[simp] theorem State.offer_RK (ps : List PortSample) : (s.offer ps).RK = s.RK := rfl
@[simp] theorem State.offer_PHASE (ps : List PortSample) : (s.offer ps).PHASE = s.PHASE := rfl
@[simp] theorem State.offer_RND (ps : List PortSample) : (s.offer ps).RND = s.RND := rfl
@[simp] theorem State.offer_KI (ps : List PortSample) : (s.offer ps).KI = s.KI := rfl
@[simp] theorem State.offer_KVALID (ps : List PortSample) : (s.offer ps).KVALID = s.KVALID := rfl
@[simp] theorem State.offer_ERR (ps : List PortSample) : (s.offer ps).ERR = s.ERR := rfl
@[simp] theorem State.offer_EFLAG (ps : List PortSample) : (s.offer ps).EFLAG = s.EFLAG := rfl
@[simp] theorem State.offer_inputs (ps : List PortSample) : (s.offer ps).inputs = ps := rfl
@[simp] theorem State.offer_wire (ps : List PortSample) : (s.offer ps).wire = s.wire := rfl
@[simp] theorem State.offer_resets (ps : List PortSample) : (s.offer ps).resets = s.resets := rfl
@[simp] theorem State.offer_sampled (ps : List PortSample) : (s.offer ps).sampled = s.offer ps.tail := rfl
@[simp] theorem State.offer_port (p : PortSample) (ps : List PortSample) : (s.offer (p :: ps)).port = p := rfl
@[simp] theorem State.offer_busy (ps : List PortSample) : (s.offer ps).busy = s.busy := rfl

/-! ### Derived flags -/

@[simp] theorem State.reject_busy (k : Rejection) : (s.reject k).busy = s.busy := rfl
@[simp] theorem State.sampled_busy : s.sampled.busy = s.busy := rfl
@[simp] theorem State.accept_busy : s.accept.busy = s.busy := rfl
@[simp] theorem State.drive_busy (w : Wire) : (s.drive w).busy = s.busy := rfl

@[simp] theorem phaseBusy_eq_true (p : Phase) : phaseBusy p = true ↔ p ≠ .idle ∧ p ≠ .done := by cases p <;> decide

theorem State.busy_eq_true : s.busy = true ↔ s.PHASE ≠ .idle ∧ s.PHASE ≠ .done := phaseBusy_eq_true s.PHASE

theorem State.busy_eq_false : s.busy = false ↔ s.PHASE = .idle ∨ s.PHASE = .done := by
  unfold State.busy
  cases s.PHASE <;> simp [phaseBusy]

/-- The sequencer invariants read `PHASE`, `RND`, `KI` and `KVALID` only. -/
theorem State.wf_congr {s t : State} (hp : t.PHASE = s.PHASE) (hr : t.RND = s.RND) (hk : t.KI = s.KI)
    (hv : t.KVALID = s.KVALID) : t.wf ↔ s.wf := by
  unfold State.wf
  rw [hp, hr, hk, hv]

theorem State.offer_wf (ps : List PortSample) : (s.offer ps).wf ↔ s.wf := State.wf_congr rfl rfl rfl rfl
theorem State.drive_wf (w : Wire) : (s.drive w).wf ↔ s.wf := State.wf_congr rfl rfl rfl rfl
theorem State.sampled_wf : s.sampled.wf ↔ s.wf := State.wf_congr rfl rfl rfl rfl
theorem State.reject_wf (k : Rejection) : (s.reject k).wf ↔ s.wf := State.wf_congr rfl rfl rfl rfl

end Sys2Proof.Machine
end

