-- ==== Sys2Proof/Laws/Ram.lean ====
section
/-! SUPPORT. Laws/Ram.lean: byte order, and the round-key RAM: a read after a write to the same place gives what was
written, and a write leaves every other place alone. -/

namespace Sys2Proof.Machine

/-! ### Words and bytes -/

@[simp] theorem byteOf_zero_word (b0 b1 b2 b3 : Byte) : byteOf 0 (word b0 b1 b2 b3) = b0 := by
  ext i hi; simp [byteOf, word]; grind
@[simp] theorem byteOf_one_word (b0 b1 b2 b3 : Byte) : byteOf 1 (word b0 b1 b2 b3) = b1 := by
  ext i hi; simp [byteOf, word]; grind
@[simp] theorem byteOf_two_word (b0 b1 b2 b3 : Byte) : byteOf 2 (word b0 b1 b2 b3) = b2 := by
  ext i hi; simp [byteOf, word]; grind
@[simp] theorem byteOf_three_word (b0 b1 b2 b3 : Byte) : byteOf 3 (word b0 b1 b2 b3) = b3 := by
  ext i hi; simp [byteOf, word]; grind

@[simp] theorem word_byteOf (w : Word) : word (byteOf 0 w) (byteOf 1 w) (byteOf 2 w) (byteOf 3 w) = w := by
  ext i hi; simp [byteOf, word]; grind

/-- A word is its four bytes. -/
theorem word_ext {u v : Word} (h : ∀ j < 4, byteOf j u = byteOf j v) : u = v := by
  rw [← word_byteOf u, ← word_byteOf v, h 0 (by omega), h 1 (by omega), h 2 (by omega), h 3 (by omega)]

theorem byteOf_xor (j : Nat) (u v : Word) : byteOf j (u ^^^ v) = byteOf j u ^^^ byteOf j v := by
  ext i hi; simp [byteOf]

/-! ### Reading -/

theorem rkByte_of_lt (k : Schedule) {a : Nat} (h : a < 176) : rkByte k a = k[a] := by simp [rkByte, h]

theorem rkByte_of_ge (k : Schedule) {a : Nat} (h : 176 ≤ a) : rkByte k a = 0 := by simp [rkByte, h]

/-- Two schedules with the same bytes are the same. -/
theorem schedule_ext {k l : Schedule} (h : ∀ a < 176, rkByte k a = rkByte l a) : k = l := by
  apply Vector.ext
  intro a ha
  rw [← rkByte_of_lt k ha, ← rkByte_of_lt l ha, h a ha]

theorem byteOf_rkWord (k : Schedule) (i : Nat) {j : Nat} (hj : j < 4) : byteOf j (rkWord k i) = rkByte k (4 * i + j) := by
  unfold rkWord
  rcases j with _ | _ | _ | _ | j <;> first | omega | simp

theorem rkWord_congr {k l : Schedule} {i : Nat} (h : ∀ j < 4, rkByte k (4 * i + j) = rkByte l (4 * i + j)) :
    rkWord k i = rkWord l i :=
  word_ext fun j hj => by rw [byteOf_rkWord k i hj, byteOf_rkWord l i hj, h j hj]

/-- Two schedules with the same words are the same. -/
theorem schedule_ext_word {k l : Schedule} (h : ∀ i < 44, rkWord k i = rkWord l i) : k = l := by
  apply schedule_ext
  intro a ha
  have e : a = 4 * (a / 4) + a % 4 := by omega
  rw [e, ← byteOf_rkWord k _ (by omega), ← byteOf_rkWord l _ (by omega), h _ (by omega)]

@[simp] theorem rkRoundKey_getElem (k : Schedule) (r i : Nat) (h : i < 16) :
    (rkRoundKey k r)[i] = rkByte k (16 * r + i) := by simp [rkRoundKey]

/-! ### Writing a word -/

/-- Every byte after `W[i] <- w`. -/
theorem rkByte_writeWord (k : Schedule) {i : Nat} (hi : i < 44) (w : Word) (a : Nat) :
    rkByte (rkWriteWord k i w) a = if a / 4 = i then byteOf (a % 4) w else rkByte k a := by
  unfold rkByte rkWriteWord
  simp only [Vector.getElem?_setIfInBounds]
  by_cases h : a / 4 = i
  · have : a % 4 = 0 ∨ a % 4 = 1 ∨ a % 4 = 2 ∨ a % 4 = 3 := by omega
    rcases this with h' | h' | h' | h' <;> rw [h', if_pos h] <;> split_ifs <;> first | omega | rfl
  · rw [if_neg h]
    split_ifs <;> first | omega | rfl

theorem rkWord_writeWord_same (k : Schedule) {i : Nat} (hi : i < 44) (w : Word) : rkWord (rkWriteWord k i w) i = w := by
  apply word_ext
  intro j hj
  rw [byteOf_rkWord _ _ hj, rkByte_writeWord k hi, if_pos (by omega)]
  congr 1
  omega

theorem rkWord_writeWord_other (k : Schedule) {i n : Nat} (hi : i < 44) (h : n ≠ i) (w : Word) :
    rkWord (rkWriteWord k i w) n = rkWord k n :=
  rkWord_congr fun j hj => by rw [rkByte_writeWord k hi, if_neg (by omega)]

/-! ### Loading a key -/

theorem byteOf_blockWord (d : Block) (c : Fin 4) {j : Nat} (hj : j < 4) :
    byteOf j (blockWord d c) = d[4 * c.val + j]'(by omega) := by
  unfold blockWord
  rcases j with _ | _ | _ | _ | j <;> first | omega | simp

/-- Every byte after `RK[0..15] <- d`. -/
theorem rkByte_load (k : Schedule) (d : Block) (a : Nat) :
    rkByte (rkLoad k d) a = if h : a < 16 then d[a] else rkByte k a := by
  unfold rkLoad
  rw [rkByte_writeWord _ (by omega), rkByte_writeWord _ (by omega), rkByte_writeWord _ (by omega),
    rkByte_writeWord _ (by omega)]
  by_cases h : a < 16
  · rw [dif_pos h]
    have : a / 4 = 0 ∨ a / 4 = 1 ∨ a / 4 = 2 ∨ a / 4 = 3 := by omega
    rcases this with h' | h' | h' | h' <;> simp only [h'] <;> norm_num <;>
      rw [byteOf_blockWord d _ (by omega)] <;> congr 1 <;> simp <;> omega
  · rw [dif_neg h]
    split_ifs <;> first | omega | rfl

theorem rkWord_load (k : Schedule) (d : Block) (c : Fin 4) : rkWord (rkLoad k d) c.val = blockWord d c := by
  apply word_ext
  intro j hj
  rw [byteOf_rkWord _ _ hj, rkByte_load, dif_pos (by omega), byteOf_blockWord d c hj]

theorem rkWord_load_other (k : Schedule) (d : Block) {i : Nat} (h : 4 ≤ i) : rkWord (rkLoad k d) i = rkWord k i :=
  rkWord_congr fun j hj => by rw [rkByte_load, dif_neg (by omega)]

end Sys2Proof.Machine
end

