-- ==== Sys2Proof/Laws/Step.lean ====
section
/-! SUPPORT. Laws/Step.lean: everything a step can do, said once. -/

namespace Sys2Proof.Machine

/-! ### The guard of a micro-operation -/

theorem unlessStuck_of_true {pre : Bool} (h : pre = true) (u : State) : unlessStuck pre u = .next u := by
  simp [unlessStuck, h]

theorem unlessStuck_of_false {pre : Bool} (h : pre = false) (u : State) : unlessStuck pre u = .fault .stuck := by
  simp [unlessStuck, h]

theorem unlessStuck_eq_next {pre : Bool} {u t : State} : unlessStuck pre u = .next t ↔ pre = true ∧ t = u := by
  unfold unlessStuck
  split <;> simp_all [eq_comm]

theorem State.kxStepReady_iff (s : State) : s.kxStepReady = true ↔ s.PHASE = .kexp ∧ 4 ≤ s.KI.toNat ∧ s.KI.toNat ≤ 43 := by
  simp [State.kxStepReady, and_assoc]

/-! ### The micro-operation of a step -/

/-- The micro-operation `SeqOp` performs in each phase, and when it has no step. -/
theorem seqOp_idle {s : State} (h : s.PHASE = .idle) : seqOp s = .next s := by
  simp [seqOp, h, execSeqIdle, unlessStuck]

theorem seqOp_done {s : State} (h : s.PHASE = .done) : seqOp s = .next s := by
  simp [seqOp, h, execSeqDone, unlessStuck]

theorem seqOp_kexp {s : State} (h : s.PHASE = .kexp) : seqOp s = unlessStuck s.kxStepReady s.kxStep := by
  simp [seqOp, h, execSeqKexp]

theorem seqOp_initial {s : State} (h : s.PHASE = .initial) : seqOp s = unlessStuck (s.RND.toNat == 0) s.seqInitial := by
  simp [seqOp, h, execSeqInitial]

theorem seqOp_round {s : State} (h : s.PHASE = .round) :
    seqOp s = unlessStuck (1 ≤ s.RND.toNat && s.RND.toNat ≤ 9) s.seqRound := by
  simp [seqOp, h, execSeqRound]

theorem seqOp_final {s : State} (h : s.PHASE = .final) : seqOp s = unlessStuck (s.RND.toNat == 10) s.seqFinal := by
  simp [seqOp, h, execSeqFinal]

/-- `SeqOp` in a legal state goes on, and these are all the ways it can. -/
theorem seqOp_of_wf {s : State} (h : s.wf) :
    (s.PHASE = .idle ∧ seqOp s = .next s) ∨ (s.PHASE = .kexp ∧ seqOp s = .next s.kxStep)
    ∨ (s.PHASE = .initial ∧ seqOp s = .next s.seqInitial) ∨ (s.PHASE = .round ∧ seqOp s = .next s.seqRound)
    ∨ (s.PHASE = .final ∧ seqOp s = .next s.seqFinal) ∨ (s.PHASE = .done ∧ seqOp s = .next s) := by
  obtain ⟨-, -, hi, hr, hf, -, hk, -, -⟩ := h
  cases hp : s.PHASE with
  | idle => simp [seqOp_idle hp]
  | kexp => simp [seqOp_kexp hp, unlessStuck_of_true (s.kxStepReady_iff.2 ⟨hp, (hk hp).1, (hk hp).2.1⟩)]
  | initial => simp [seqOp_initial hp, unlessStuck, hi hp]
  | round => simp [seqOp_round hp, unlessStuck, hr hp]
  | final => simp [seqOp_final hp, unlessStuck, hf hp]
  | done => simp [seqOp_done hp]

/-- Whatever the state, `SeqOp` goes on in one of these ways only. -/
theorem seqOp_cases {s t : State} (h : seqOp s = .next t) :
    (s.PHASE = .idle ∧ t = s) ∨ (s.PHASE = .kexp ∧ s.kxStepReady = true ∧ t = s.kxStep)
    ∨ (s.PHASE = .initial ∧ s.RND.toNat = 0 ∧ t = s.seqInitial)
    ∨ (s.PHASE = .round ∧ 1 ≤ s.RND.toNat ∧ s.RND.toNat ≤ 9 ∧ t = s.seqRound)
    ∨ (s.PHASE = .final ∧ s.RND.toNat = 10 ∧ t = s.seqFinal) ∨ (s.PHASE = .done ∧ t = s) := by
  cases hp : s.PHASE with
  | idle => rw [seqOp_idle hp] at h; cases h; simp
  | kexp => rw [seqOp_kexp hp, unlessStuck_eq_next] at h; simp [h]
  | initial => rw [seqOp_initial hp, unlessStuck_eq_next] at h; simp_all
  | round => rw [seqOp_round hp, unlessStuck_eq_next] at h; simp_all
  | final => rw [seqOp_final hp, unlessStuck_eq_next] at h; simp_all
  | done => rw [seqOp_done hp] at h; cases h; simp

/-- `SeqOp` writes none of `ERR`, `EFLAG` and the model's own fields (60_exceptions.md R187). -/
theorem seqOp_keeps {s t : State} (h : seqOp s = .next t) :
    t.ERR = s.ERR ∧ t.EFLAG = s.EFLAG ∧ t.inputs = s.inputs ∧ t.wire = s.wire ∧ t.resets = s.resets := by
  rcases seqOp_cases h with ⟨_, rfl⟩ | ⟨_, _, rfl⟩ | ⟨_, _, rfl⟩ | ⟨_, _, _, rfl⟩ | ⟨_, _, rfl⟩ | ⟨_, rfl⟩ <;> simp

/-- The sequencer code in `PHASE` decodes to an instruction whose meaning is `SeqOp`. -/
theorem decodeSeq_phaseCode (s : State) (p : Phase) (h : s.PHASE = p) (u : State) (hu : u.PHASE = p) :
    ∃ i, decode (.seq (phaseCode s.PHASE)) = .ok i ∧ exec i u = seqOp u := by
  subst h
  cases hp : s.PHASE <;> rw [hp] at hu <;> refine ⟨_, rfl, ?_⟩ <;> simp [exec, seqOp, hu]

/-! ### Commands -/

/-- What a presented command word does (44_cipher_driver.md R150). -/
theorem exec_decodeCmd (w : BitVec 8) (din : Block) (s : State) :
    exec (decodeCmd w din) s =
      if opField w = 0 then seqOp s
      else if 3 ≤ (opField w).toNat then seqOp (s.reject .illegalCommand)
      else if s.busy then seqOp (s.reject .busy)
      else if lenField w ≠ 16 then seqOp (s.reject .invalidLength)
      else if opField w = 2 ∧ s.KVALID = false then seqOp (s.reject .noKey)
      else if opField w = 1 then .next (s.accept.kxLoad din)
      else .next (s.accept.encLoad din) := by
  have hop : ∀ x : BitVec 3, x = 0 ∨ x = 1 ∨ x = 2 ∨ x = 3 ∨ 3 < x.toNat := by decide
  unfold decodeCmd
  rcases hop (opField w) with h | h | h | h | h
  · simp [h, exec, execNop]
  · simp only [h, exec, execExpandKey, rejectThenSeqOp, lenOk]
    split_ifs <;> simp_all
  · simp only [h, exec, execEncryptBlock, rejectThenSeqOp, lenOk]
    split_ifs <;> simp_all
  · simp [h, exec, execReservedOp3, rejectThenSeqOp]
  · have hn : opField w ≠ 0 ∧ opField w ≠ 1 ∧ opField w ≠ 2 ∧ opField w ≠ 3 := by
      refine ⟨?_, ?_, ?_, ?_⟩ <;> intro e <;> rw [e] at h <;> simp at h
    obtain ⟨n0, n1, n2, n3⟩ := hn
    simp only [if_neg n0, if_neg n1, if_neg n2, if_neg n3, if_pos h.le, exec, execReservedOp47, rejectThenSeqOp]

/-- A command word with the operation code and the length of an accepted command is the canonical word. -/
theorem cmd_of_fields (w : BitVec 8) :
    (opField w = 1 ∧ lenField w = 16 ↔ w = 0x30#8) ∧ (opField w = 2 ∧ lenField w = 16 ↔ w = 0x50#8) := by
  revert w
  decide

/-! ### The step -/

/-- 44_cipher_driver.md R150 as one equation, in a state that may step. -/
theorem step_of_wf {s : State} (hr : s.port.rst = false) (hw : s.wf) :
    step s = if s.port.cmdValid then exec (decodeCmd s.port.cmd s.port.din) s.sampled else seqOp s.sampled := by
  unfold step
  rw [if_pos (Or.inr hw)]
  unfold fetchBits
  simp only [hr]
  cases hc : s.port.cmdValid
  · obtain ⟨i, hd, he⟩ := decodeSeq_phaseCode s s.PHASE rfl s.sampled rfl
    simp [hd, he]
  · simp [decode]

theorem step_of_rst {s : State} (hr : s.port.rst = true) : step s = .next s.sampled.resetStep := by
  unfold step
  rw [if_pos (Or.inl hr)]
  simp [fetchBits, hr, decode, decodePin, exec, execReset]

theorem step_of_not_wf {s : State} (hr : s.port.rst = false) (hw : ¬ s.wf) : step s = .fault .stuck := by
  unfold step
  rw [if_neg (by simp [hr, hw])]

/-- Everything a step that goes on can have done: a reset; the micro-operation, after a rejection or with no command
to handle; or the load of an accepted command. -/
theorem step_cases {s t : State} (h : step s = .next t) :
    (s.port.rst = true ∧ t = s.sampled.resetStep)
    ∨ (s.port.rst = false ∧ s.wf ∧
      ((seqOp s.sampled = .next t ∧ (s.port.cmdValid = false ∨ opField s.port.cmd = 0))
      ∨ (∃ k, seqOp (s.sampled.reject k) = .next t ∧ s.port.cmdValid = true ∧ opField s.port.cmd ≠ 0)
      ∨ (t = s.sampled.accept.kxLoad s.port.din ∧ s.port.cmdValid = true ∧ s.port.cmd = 0x30#8 ∧ s.busy = false)
      ∨ (t = s.sampled.accept.encLoad s.port.din ∧ s.port.cmdValid = true ∧ s.port.cmd = 0x50#8 ∧ s.busy = false
          ∧ s.KVALID = true))) := by
  cases hr : s.port.rst
  · by_cases hw : s.wf
    · refine Or.inr ⟨rfl, hw, ?_⟩
      rw [step_of_wf hr hw] at h
      cases hc : s.port.cmdValid
      · left; simpa [hc] using h
      · rw [hc, if_pos rfl, exec_decodeCmd] at h
        have h30 := (cmd_of_fields s.port.cmd).1
        have h50 := (cmd_of_fields s.port.cmd).2
        have hop : ∀ x : BitVec 3, x ≠ 0 → ¬ 3 ≤ x.toNat → x ≠ 1 → x = 2 := by decide
        split_ifs at h with h0 h3 hb hl hn h1
        · exact Or.inl ⟨h, Or.inr h0⟩
        · exact Or.inr (Or.inl ⟨_, h, rfl, h0⟩)
        · exact Or.inr (Or.inl ⟨_, h, rfl, h0⟩)
        · exact Or.inr (Or.inl ⟨_, h, rfl, h0⟩)
        · exact Or.inr (Or.inl ⟨_, h, rfl, h0⟩)
        · cases h
          exact Or.inr (Or.inr (Or.inl ⟨rfl, rfl, h30.1 ⟨h1, not_not.1 hl⟩, by simpa using hb⟩))
        · cases h
          have h2 := hop _ h0 h3 h1
          refine Or.inr (Or.inr (Or.inr ⟨rfl, rfl, h50.1 ⟨h2, not_not.1 hl⟩, by simpa using hb, ?_⟩))
          simpa [h2] using hn
    · rw [step_of_not_wf hr hw] at h; cases h
  · left
    rw [step_of_rst hr] at h
    cases h
    exact ⟨rfl, rfl⟩

/-- 44_cipher_driver.md R150 as one if-chain on the sampled ports, in a legal state and without reset. -/
theorem step_chain {s : State} (hr : s.port.rst = false) (hw : s.wf) :
    step s =
      if Safety.presents s.port = false then seqOp s.sampled
      else if 3 ≤ (opField s.port.cmd).toNat then seqOp (s.sampled.reject .illegalCommand)
      else if s.busy then seqOp (s.sampled.reject .busy)
      else if lenField s.port.cmd ≠ 16 then seqOp (s.sampled.reject .invalidLength)
      else if opField s.port.cmd = 2 ∧ s.KVALID = false then seqOp (s.sampled.reject .noKey)
      else if opField s.port.cmd = 1 then .next (s.sampled.accept.kxLoad s.port.din)
      else .next (s.sampled.accept.encLoad s.port.din) := by
  rw [step_of_wf hr hw, exec_decodeCmd]
  cases hc : s.port.cmdValid
  · rw [if_neg (by simp), if_pos (by simp [Safety.presents, hc])]
  · rw [if_pos rfl]
    by_cases h0 : opField s.port.cmd = 0
    · rw [if_pos h0, if_pos (by simp [Safety.presents, h0])]
    · have hp : Safety.presents s.port = true := by simpa [Safety.presents, hc] using h0
      rw [if_neg h0, hp, if_neg (show ¬ (true = false) by decide)]
      rfl

/-- While an operation is in progress every step without reset is the micro-operation, after at most a rejection
(60_exceptions.md R183). -/
theorem step_of_busy {s : State} (hw : s.wf) (hb : s.busy = true) (hr : s.port.rst = false) :
    (Safety.presents s.port = false ∧ step s = seqOp s.sampled)
    ∨ (Safety.presents s.port = true ∧ ∃ k, step s = seqOp (s.sampled.reject k)) := by
  rw [step_chain hr hw]
  by_cases h : Safety.presents s.port = false
  · exact Or.inl ⟨h, by rw [if_pos h]⟩
  · refine Or.inr ⟨by simpa using h, ?_⟩
    rw [if_neg h]
    split_ifs <;> exact ⟨_, rfl⟩

/-! ### The model's own field `wire` -/

theorem unlessStuck_drive (pre : Bool) (u : State) (w : Wire) :
    (∀ t, unlessStuck pre u = .next t → unlessStuck pre (u.drive w) = .next (t.drive w))
    ∧ ∀ r, unlessStuck pre u = .fault r → unlessStuck pre (u.drive w) = .fault r := by
  cases pre <;> simp [unlessStuck]

/-- What `wire` holds makes no difference to `SeqOp`. -/
theorem seqOp_drive (s : State) (w : Wire) :
    (∀ t, seqOp s = .next t → seqOp (s.drive w) = .next (t.drive w))
    ∧ ∀ r, seqOp s = .fault r → seqOp (s.drive w) = .fault r := by
  cases hp : s.PHASE
  · rw [seqOp_idle hp, seqOp_idle (s := s.drive w) hp]; simp
  · rw [seqOp_kexp hp, seqOp_kexp (s := s.drive w) hp]; exact unlessStuck_drive _ _ w
  · rw [seqOp_initial hp, seqOp_initial (s := s.drive w) hp]; exact unlessStuck_drive _ _ w
  · rw [seqOp_round hp, seqOp_round (s := s.drive w) hp]; exact unlessStuck_drive _ _ w
  · rw [seqOp_final hp, seqOp_final (s := s.drive w) hp]; exact unlessStuck_drive _ _ w
  · rw [seqOp_done hp, seqOp_done (s := s.drive w) hp]; simp

/-! ### The host's interface -/

@[simp] theorem core_step (s : State) : Sys2Proof.core.step s = step s := rfl

theorem run_zero (s : State) : Host.Core.run Sys2Proof.core 0 s = .next s := rfl

theorem run_succ {s t : State} (n : Nat) (h : step s = .next t) :
    Host.Core.run Sys2Proof.core (n + 1) s = Host.Core.run Sys2Proof.core n t := by
  have h' : Sys2Proof.core.step s = .next t := h
  simp only [Host.Core.run, h']

/-- A run of `n + m` steps is a run of `m` steps after one of `n`. -/
theorem run_add (n m : Nat) {s t : State} (h : Host.Core.run Sys2Proof.core n s = .next t) :
    Host.Core.run Sys2Proof.core (n + m) s = Host.Core.run Sys2Proof.core m t := by
  induction n generalizing s with
  | zero => cases h; simp
  | succ n ih =>
    cases hs : step s with
    | next u => rw [run_succ _ hs] at h; rw [show n + 1 + m = n + m + 1 by omega, run_succ _ hs]; exact ih h
    | fault r => simp only [Host.Core.run, core_step, hs] at h; cases h
    | refused r => simp only [Host.Core.run, core_step, hs] at h; cases h

end Sys2Proof.Machine
end

