-- ==== Sys2Proof/Laws/Datapath.lean ====
section
/-! SUPPORT. Laws/Datapath.lean: the value of each datapath function at each byte, word or column. -/

namespace Sys2Proof.Machine

/-! ### The round pipeline -/

@[simp] theorem subBytes_getElem (s : Block) (i : Nat) (h : i < 16) : (subBytes s)[i] = sboxRead s[i] := by
  simp [subBytes]

@[simp] theorem addRoundKey_getElem (s k : Block) (i : Nat) (h : i < 16) : (addRoundKey s k)[i] = s[i] ^^^ k[i] := by
  simp [addRoundKey]

@[simp] theorem matrixByte_ofMatrix (f : (r c : Fin 4) → Byte) (r c : Fin 4) : matrixByte (ofMatrix f) r c = f r c := by
  have hr : (4 * c.val + r.val) % 4 = r.val := by omega
  have hc : (4 * c.val + r.val) / 4 = c.val := by omega
  simp [matrixByte, ofMatrix, hr, hc]

/-- A block is its matrix. -/
theorem block_ext {s t : Block} (h : ∀ r c, matrixByte s r c = matrixByte t r c) : s = t := by
  apply Vector.ext
  intro i hi
  have e := h ⟨i % 4, by omega⟩ ⟨i / 4, by omega⟩
  have hm : 4 * (i / 4) + i % 4 = i := by omega
  simpa [matrixByte, hm] using e

@[simp] theorem matrixByte_subBytes (s : Block) (r c : Fin 4) : matrixByte (subBytes s) r c = sboxRead (matrixByte s r c) := by
  simp [matrixByte]

@[simp] theorem matrixByte_addRoundKey (s k : Block) (r c : Fin 4) :
    matrixByte (addRoundKey s k) r c = matrixByte s r c ^^^ matrixByte k r c := by
  simp [matrixByte]

@[simp] theorem matrixByte_shiftRows (s : Block) (r c : Fin 4) : matrixByte (shiftRows s) r c = matrixByte s r (c + r) := by
  unfold shiftRows
  rw [matrixByte_ofMatrix]
  rfl

@[simp] theorem matrixByte_mixColumns (s : Block) (r c : Fin 4) :
    matrixByte (mixColumns s) r c = columnRow (mixColumn (matrixColumn s c)) r := by
  unfold mixColumns
  rw [matrixByte_ofMatrix]

@[simp] theorem matrixColumn_mixColumns (s : Block) (c : Fin 4) :
    matrixColumn (mixColumns s) c = mixColumn (matrixColumn s c) := by
  simp only [matrixColumn, matrixByte_mixColumns]
  rfl

@[simp] theorem matrixByte_roundKey (k : Schedule) (n : Nat) (r c : Fin 4) :
    matrixByte (rkRoundKey k n) r c = byteOf r.val (rkWord k (4 * n + c.val)) := by
  rw [byteOf_rkWord k _ r.isLt]
  simp only [matrixByte, rkRoundKey_getElem]
  congr 1
  omega

/-! ### The key schedule -/

theorem rconRead_of_entry {i : Nat} {c : Word} (h : rconRom i = some c) : rconRead i = c := by simp [rconRead, h]

theorem expandWord_key (K : Block) (c : Fin 4) : expandWord K c.val = blockWord K c := by
  fin_cases c <;> rfl

/-- The recurrence of `expand_key` (42_key_schedule.md R115). -/
theorem expandWord_next (K : Block) (n : Nat) :
    expandWord K (n + 4) = nextWord (n + 4) (expandWord K (n + 3)) (expandWord K n) := rfl

theorem rkByte_expandKey (K : Block) {a : Nat} (h : a < 176) :
    rkByte (expandKey K) a = byteOf (a % 4) (expandWord K (a / 4)) := by
  rw [rkByte_of_lt _ h]
  simp [expandKey]

theorem rkWord_expandKey (K : Block) {i : Nat} (h : i < 44) : rkWord (expandKey K) i = expandWord K i := by
  apply word_ext
  intro j hj
  rw [byteOf_rkWord _ _ hj, rkByte_expandKey K (by omega)]
  congr 1
  · omega
  · congr 1; omega

end Sys2Proof.Machine
end

