-- ==== Sys2Proof/Laws/Field.lean ====
section
/-! SUPPORT. Laws/Field.lean: the multiplier's loop is additive in each operand, and two additive functions on bytes are
equal if they agree on the eight single bits. -/

namespace Sys2Proof.Machine

theorem xtime_xor (a b : Byte) : xtime (a ^^^ b) = xtime a ^^^ xtime b := by
  have h : ∀ x y : Bool, (if (x ^^ y) = true then Config.reduction else 0) =
      (if x = true then Config.reduction else 0) ^^^ (if y = true then Config.reduction else 0) := by decide
  unfold xtime
  rw [BitVec.getLsbD_xor, BitVec.shiftLeft_xor_distrib, h]
  ac_rfl

/-- The loop is additive in the accumulator and the shifting operand together. -/
theorem gmulLoop_xor_shifting (n : Nat) (p q a c b : Byte) :
    gmulLoop n (p ^^^ q) (a ^^^ c) b = gmulLoop n p a b ^^^ gmulLoop n q c b := by
  induction n generalizing p q a c b with
  | zero => rfl
  | succ n ih =>
    simp only [gmulLoop]
    rw [xtime_xor, ← ih]
    congr 1
    split_ifs
    · ac_rfl
    · rfl

/-- The loop is additive in the accumulator and the selecting operand together. -/
theorem gmulLoop_xor_selecting (n : Nat) (p q a b d : Byte) :
    gmulLoop n (p ^^^ q) a (b ^^^ d) = gmulLoop n p a b ^^^ gmulLoop n q a d := by
  induction n generalizing p q a b d with
  | zero => rfl
  | succ n ih =>
    simp only [gmulLoop]
    rw [BitVec.ushiftRight_xor_distrib, ← ih]
    congr 1
    rw [BitVec.getLsbD_xor]
    cases b.getLsbD 0 <;> cases d.getLsbD 0 <;> simp
    · ac_rfl
    · rw [show p ^^^ a ^^^ q = p ^^^ q ^^^ a by ac_rfl]
    · rw [show p ^^^ a ^^^ (q ^^^ a) = p ^^^ q ^^^ (a ^^^ a) by ac_rfl]; simp

/-- A byte is the sum of its bits. -/
theorem byte_eq_bits : ∀ a : Byte, a =
    (if a.getLsbD 0 then 1 else 0) ^^^ (if a.getLsbD 1 then 2 else 0) ^^^ (if a.getLsbD 2 then 4 else 0)
      ^^^ (if a.getLsbD 3 then 8 else 0) ^^^ (if a.getLsbD 4 then 16 else 0) ^^^ (if a.getLsbD 5 then 32 else 0)
      ^^^ (if a.getLsbD 6 then 64 else 0) ^^^ (if a.getLsbD 7 then 128 else 0) := by decide

/-- Two additive functions that agree on 1, 2, 4, …, 128 agree everywhere. -/
theorem additive_ext {f g : Byte → Byte} (hf : ∀ a b, f (a ^^^ b) = f a ^^^ f b) (hg : ∀ a b, g (a ^^^ b) = g a ^^^ g b)
    (h : ∀ i : Fin 8, f (BitVec.twoPow 8 i.val) = g (BitVec.twoPow 8 i.val)) (a : Byte) : f a = g a := by
  have z : ∀ k : Byte → Byte, (∀ a b, k (a ^^^ b) = k a ^^^ k b) → k 0 = 0 := by
    intro k hk
    simpa using hk 0 0
  have z0 : f 0 = g 0 := (z f hf).trans (z g hg).symm
  have step : ∀ (c : Bool) (x : Byte), f x = g x → f (if c then x else 0) = g (if c then x else 0) := by
    intro c x hx
    cases c
    · exact z0
    · exact hx
  rw [byte_eq_bits a]
  simp only [hf, hg]
  rw [step _ 1 (h 0), step _ 2 (h 1), step _ 4 (h 2), step _ 8 (h 3), step _ 16 (h 4), step _ 32 (h 5), step _ 64 (h 6),
    step _ 128 (h 7)]

end Sys2Proof.Machine
end

