-- ==== Sys2Proof/Laws/PerInstr.lean ====
section
/-! SUPPORT. Laws/PerInstr.lean: the statement made of every instruction: its encoding lies in its row of
spec/opcode_table.json (width, mask, match), and it has no encoding where the row has no bits. -/

namespace Sys2Proof

/-- Width and number of the bits of a format. -/
def bitsNumber : Bits → Nat × Nat
  | .cmd w _ => (8, w.toNat)
  | .pin x => (1, x.toNat)
  | .seq x => (3, x.toNat)
  | .rctl x => (4, x.toNat)

/-- Width, mask and match of an instruction's row of spec/opcode_table.json; none for format FUNC. -/
def tableRow : Instr → Option (Nat × Nat × Nat)
  | .nop _ => some (8, 0xe0, 0x00)
  | .expandKey _ _ => some (8, 0xe0, 0x20)
  | .encryptBlock _ _ => some (8, 0xe0, 0x40)
  | .reservedOp3 _ => some (8, 0xe0, 0x60)
  | .reservedOp47 _ _ => some (8, 0x80, 0x80)
  | .reset => some (1, 0x1, 0x1)
  | .seqIdle => some (3, 0x7, 0x0)
  | .seqKexp => some (3, 0x7, 0x1)
  | .seqInitial => some (3, 0x7, 0x2)
  | .seqRound => some (3, 0x7, 0x3)
  | .seqFinal => some (3, 0x7, 0x4)
  | .seqDone => some (3, 0x7, 0x5)
  | .subBytes => some (4, 0x8, 0x8)
  | .shiftRows => some (4, 0x4, 0x4)
  | .mixColumns => some (4, 0x2, 0x2)
  | .addRoundKey => some (4, 0x1, 0x1)
  | .gfmul _ _ => none
  | .xtime _ => none
  | .sbox _ => none
  | .rotWord _ => none
  | .subWord _ => none
  | .rcon _ => none
  | .keyWords _ => none
  | .nextWord _ _ _ => none
  | .expandKeyFn _ => none
  | .kxLoad _ => none
  | .kxStep => none
  | .mixColumn _ => none
  | .roundFn _ _ _ => none
  | .encLoad _ => none
  | .encryptBlockFn _ _ => none

/-- The instruction's encoding lies in its row; without a row with bits it has none. -/
def Laws.TableRow.Statement (i : Instr) : Prop :=
  match encode i, tableRow i with
  | some b, some (width, mask, value) => (bitsNumber b).1 = width ∧ (bitsNumber b).2 &&& mask = value
  | none, none => True
  | some _, none => False
  | none, some _ => False

theorem Laws.TableRow.nop (len : BitVec 5) : Laws.TableRow.Statement (.nop len) := by
  show 8 = 8 ∧ (cmdWord 0b000 len).toNat &&& 0xe0 = 0x00
  revert len
  decide
theorem Laws.TableRow.expandKey (len : BitVec 5) (din : Block) : Laws.TableRow.Statement (.expandKey len din) := by
  show 8 = 8 ∧ (cmdWord 0b001 len).toNat &&& 0xe0 = 0x20
  revert len
  decide
theorem Laws.TableRow.encryptBlock (len : BitVec 5) (din : Block) : Laws.TableRow.Statement (.encryptBlock len din) := by
  show 8 = 8 ∧ (cmdWord 0b010 len).toNat &&& 0xe0 = 0x40
  revert len
  decide
theorem Laws.TableRow.reservedOp3 (len : BitVec 5) : Laws.TableRow.Statement (.reservedOp3 len) := by
  show 8 = 8 ∧ (cmdWord 0b011 len).toNat &&& 0xe0 = 0x60
  revert len
  decide
theorem Laws.TableRow.reservedOp47 (opLow : BitVec 2) (len : BitVec 5) : Laws.TableRow.Statement (.reservedOp47 opLow len) := by
  show 8 = 8 ∧ (cmdWord (1#1 ++ opLow) len).toNat &&& 0x80 = 0x80
  revert opLow len
  decide
theorem Laws.TableRow.reset : Laws.TableRow.Statement .reset := ⟨rfl, rfl⟩
theorem Laws.TableRow.seqIdle : Laws.TableRow.Statement .seqIdle := ⟨rfl, rfl⟩
theorem Laws.TableRow.seqKexp : Laws.TableRow.Statement .seqKexp := ⟨rfl, rfl⟩
theorem Laws.TableRow.seqInitial : Laws.TableRow.Statement .seqInitial := ⟨rfl, rfl⟩
theorem Laws.TableRow.seqRound : Laws.TableRow.Statement .seqRound := ⟨rfl, rfl⟩
theorem Laws.TableRow.seqFinal : Laws.TableRow.Statement .seqFinal := ⟨rfl, rfl⟩
theorem Laws.TableRow.seqDone : Laws.TableRow.Statement .seqDone := ⟨rfl, rfl⟩
theorem Laws.TableRow.subBytes : Laws.TableRow.Statement .subBytes := ⟨rfl, rfl⟩
theorem Laws.TableRow.shiftRows : Laws.TableRow.Statement .shiftRows := ⟨rfl, rfl⟩
theorem Laws.TableRow.mixColumns : Laws.TableRow.Statement .mixColumns := ⟨rfl, rfl⟩
theorem Laws.TableRow.addRoundKey : Laws.TableRow.Statement .addRoundKey := ⟨rfl, rfl⟩
theorem Laws.TableRow.gfmul (a : Byte) (b : Byte) : Laws.TableRow.Statement (.gfmul a b) := trivial
theorem Laws.TableRow.xtime (a : Byte) : Laws.TableRow.Statement (.xtime a) := trivial
theorem Laws.TableRow.sbox (x : Byte) : Laws.TableRow.Statement (.sbox x) := trivial
theorem Laws.TableRow.rotWord (w : Word) : Laws.TableRow.Statement (.rotWord w) := trivial
theorem Laws.TableRow.subWord (w : Word) : Laws.TableRow.Statement (.subWord w) := trivial
theorem Laws.TableRow.rcon (i : BitVec 4) : Laws.TableRow.Statement (.rcon i) := trivial
theorem Laws.TableRow.keyWords (k : Block) : Laws.TableRow.Statement (.keyWords k) := trivial
theorem Laws.TableRow.nextWord (i : BitVec 6) (prev : Word) (back : Word) : Laws.TableRow.Statement (.nextWord i prev back) := trivial
theorem Laws.TableRow.expandKeyFn (k : Block) : Laws.TableRow.Statement (.expandKeyFn k) := trivial
theorem Laws.TableRow.kxLoad (din : Block) : Laws.TableRow.Statement (.kxLoad din) := trivial
theorem Laws.TableRow.kxStep : Laws.TableRow.Statement .kxStep := trivial
theorem Laws.TableRow.mixColumn (c : Column) : Laws.TableRow.Statement (.mixColumn c) := trivial
theorem Laws.TableRow.roundFn (ctl : BitVec 4) (s : Block) (k : Block) : Laws.TableRow.Statement (.roundFn ctl s k) := trivial
theorem Laws.TableRow.encLoad (din : Block) : Laws.TableRow.Statement (.encLoad din) := trivial
theorem Laws.TableRow.encryptBlockFn (p : Block) (sched : Schedule) : Laws.TableRow.Statement (.encryptBlockFn p sched) := trivial

end Sys2Proof
end

