-- ==== Sys2Proof/Tests/Slice0.lean ====
section
/-! SUPPORT. Tests/Slice0.lean: small checks of the model, with the expected values of the spec's own tables and examples
(the source of each stands in its comment), and for every statement that has hypotheses a concrete case that meets them. -/

namespace Sys2Proof.Tests

open Machine

/-! ### Helpers -/

/-- The key of the known-answer test (95_test_vectors.md V5). -/
def katKey : Block := ofBus 0x000102030405060708090a0b0c0d0e0f

/-- The plaintext of the known-answer test. -/
def katPlain : Block := ofBus 0x00112233445566778899aabbccddeeff

/-- The state entering round 1 of the known-answer test. -/
def katRound1 : Block := ofBus 0x00102030405060708090a0b0c0d0e0f0

/-- Round key 1 of the known-answer test (V3). -/
def katRk1 : Block := ofBus 0xd6aa74fdd2af72fadaa678f1d6ab76fe

/-- A state with the schedule of the known-answer key. -/
def st (p : Phase) (rnd : BitVec 4) (ki : BitVec 6) (kv : Bool) (ps : List PortSample) : State where
  PHASE := p
  RND := rnd
  KI := ki
  KVALID := kv
  ERR := .accepted
  EFLAG := false
  S := katRound1
  RK := expandKey katKey
  inputs := ps
  wire := .quiet
  resets := 1

/-- A step that presents a command word. -/
def cmd (w : BitVec 8) (din : Block) : PortSample := ⟨false, true, w, din⟩

/-- The legal states the tests start from, one a phase. -/
def idle0 (ps : List PortSample) : State := st .idle 0 0 false ps
def idleKey (ps : List PortSample) : State := st .idle 0 44 true ps
def kexp (ki : BitVec 6) (ps : List PortSample) : State := st .kexp 0 ki false ps
def initial (ps : List PortSample) : State := st .initial 0 44 true ps
def round (r : BitVec 4) (ps : List PortSample) : State := st .round r 44 true ps
def final (ps : List PortSample) : State := st .final 10 44 true ps
def done (ps : List PortSample) : State := st .done 10 44 true ps

/-- What a step that goes on leaves, seen through `f`. -/
def after {α : Type} (o : Host.Outcome State Fault Refusal) (f : State → α) : Option α :=
  match o with
  | .next t => some (f t)
  | .fault _ => none
  | .refused _ => none

/-- Whether a step goes on. -/
def goes (o : Host.Outcome State Fault Refusal) : Bool := (after o fun _ => ()).isSome

theorem goes_next {o : Host.Outcome State Fault Refusal} (h : goes o = true) : ∃ t, o = .next t := by
  cases o with
  | next t => exact ⟨t, rfl⟩
  | fault r => cases h
  | refused r => cases h

/-! ### Well-formedness: a term each check refuses -/

theorem test_rcon_index_zero_is_ill_formed : (Instr.rcon 0).wellFormed = false := by decide
theorem test_rcon_index_eleven_is_ill_formed : (Instr.rcon 11).wellFormed = false := by decide
theorem test_rcon_bounds_are_well_formed : (Instr.rcon 1).wellFormed && (Instr.rcon 10).wellFormed = true := by decide
theorem test_nextWord_index_three_is_ill_formed : (Instr.nextWord 3 0 0).wellFormed = false := by decide
theorem test_nextWord_index_44_is_ill_formed : (Instr.nextWord 44 0 0).wellFormed = false := by decide
theorem test_nextWord_bounds_are_well_formed :
    (Instr.nextWord 4 0 0).wellFormed && (Instr.nextWord 43 0 0).wellFormed = true := by decide

/-! ### Decoding: words written out from 30_encoding.md R70 to R75 and spec/opcode_table.json -/

theorem test_decode_nop : decode (.cmd 0b00000000#8 katKey) = .ok (.nop 0) := rfl
theorem test_decode_nop_any_len : decode (.cmd 0b00011111#8 katKey) = .ok (.nop 31) := rfl
theorem test_decode_expandKey : decode (.cmd 0b00110000#8 katKey) = .ok (.expandKey 16 katKey) := rfl
theorem test_decode_expandKey_bad_len : decode (.cmd 0b00101111#8 katKey) = .ok (.expandKey 15 katKey) := rfl
theorem test_decode_encryptBlock : decode (.cmd 0b01010000#8 katPlain) = .ok (.encryptBlock 16 katPlain) := rfl
theorem test_decode_encryptBlock_bad_len : decode (.cmd 0b01011111#8 katPlain) = .ok (.encryptBlock 31 katPlain) := rfl
theorem test_decode_reservedOp3 : decode (.cmd 0b01111111#8 katKey) = .ok (.reservedOp3 31) := rfl
theorem test_decode_reservedOp4 : decode (.cmd 0b10000000#8 katKey) = .ok (.reservedOp47 0 0) := rfl
theorem test_decode_reservedOp7 : decode (.cmd 0b11110000#8 katKey) = .ok (.reservedOp47 3 16) := rfl
theorem test_decode_reset : decode (.pin 0b1#1) = .ok (.reset) := rfl
theorem test_decode_seqIdle : decode (.seq 0b000#3) = .ok (.seqIdle) := rfl
theorem test_decode_seqKexp : decode (.seq 0b001#3) = .ok (.seqKexp) := rfl
theorem test_decode_seqInitial : decode (.seq 0b010#3) = .ok (.seqInitial) := rfl
theorem test_decode_seqRound : decode (.seq 0b011#3) = .ok (.seqRound) := rfl
theorem test_decode_seqFinal : decode (.seq 0b100#3) = .ok (.seqFinal) := rfl
theorem test_decode_seqDone : decode (.seq 0b101#3) = .ok (.seqDone) := rfl
theorem test_decode_subBytes : decode (.rctl 0b1000#4) = .ok (.subBytes) := rfl
theorem test_decode_shiftRows : decode (.rctl 0b0100#4) = .ok (.shiftRows) := rfl
theorem test_decode_mixColumns : decode (.rctl 0b0010#4) = .ok (.mixColumns) := rfl
theorem test_decode_addRoundKey : decode (.rctl 0b0001#4) = .ok (.addRoundKey) := rfl
theorem test_decode_rejects_rst_low : decode (.pin 0b0#1) = .error .rstLow := rfl
theorem test_decode_rejects_code_6 : decode (.seq 0b110#3) = .error .unusedSeqCode := rfl
theorem test_decode_rejects_code_7 : decode (.seq 0b111#3) = .error .unusedSeqCode := rfl
theorem test_decode_rejects_no_stage : decode (.rctl 0b0000#4) = .error .notOneStage := rfl
theorem test_full_round_word_is_all_stages :
    rctlStages 0b1111 = [.subBytes, .shiftRows, .mixColumns, .addRoundKey] := by decide
theorem test_final_round_word_leaves_out_mixing : rctlStages 0b1101 = [.subBytes, .shiftRows, .addRoundKey] := by decide

/-! ### The host's interface -/

theorem test_table_word_expandKey : decodeTableWord 8 0x30 = some (.expandKey 16 noOperand) := by decide
theorem test_table_word_operand : decodeTableWord 136 (0x50 + 0x07 * 2 ^ 8) =
    some (.encryptBlock 16 (ofBus 0x07000000000000000000000000000000)) := by decide
theorem test_table_word_reset : decodeTableWord 1 1 = some .reset := by decide
theorem test_table_word_seqFinal : decodeTableWord 3 4 = some .seqFinal := by decide
theorem test_table_word_mixColumns : decodeTableWord 4 2 = some .mixColumns := by decide
theorem test_table_word_func : decodeTableWord 0 0 = none := by decide
theorem test_fetch_expandKey : after (step (State.reset.withFetchWord 8 0x30)) (fun t => (t.PHASE, t.KI, t.ERR)) =
    some (.kexp, 4, .accepted) := by decide
theorem test_fetch_encryptBlock : after (step (State.reset.withFetchWord 8 0x50)) (fun t => (t.PHASE, t.errOut, t.EFLAG)) =
    some (.idle, 4, true) := by decide
theorem test_fetch_reset : after (step (State.reset.withFetchWord 1 1)) (fun t => (t.PHASE, t.resets)) =
    some (.idle, 2) := by decide
theorem test_fetch_seqRound : after (step (State.reset.withFetchWord 3 3)) (fun t => (t.PHASE, t.RND)) =
    some (.round, 2) := by decide
theorem test_fetch_seqKexp : after (step (State.reset.withFetchWord 3 1)) (fun t => (t.PHASE, t.KI)) =
    some (.kexp, 5) := by decide
theorem test_fetch_seqFinal : after (step (State.reset.withFetchWord 3 4)) (fun t => (t.PHASE, t.RND)) =
    some (.done, 10) := by decide
theorem test_fetch_full_round_word : after (step (State.reset.withFetchWord 4 0b1111)) (fun t => (t.PHASE, t.RND)) =
    some (.round, 2) := by decide

/-! ### The datapath: 95_test_vectors.md V1 to V17 -/

/-- V1. -/
theorem test_gfmul : after (exec (.gfmul 0x57 0x13) (idle0 [])) State.wire = some (.byte 0xFE) := by decide
/-- V10. -/
theorem test_gfmul_largest : after (exec (.gfmul 0xFF 0xFF) (idle0 [])) State.wire = some (.byte 0x13) := by decide
/-- V10. -/
theorem test_xtime_no_reduction : after (exec (.xtime 0x7F) (idle0 [])) State.wire = some (.byte 0xFE) := by decide
/-- V10. -/
theorem test_xtime_reduction : after (exec (.xtime 0x80) (idle0 [])) State.wire = some (.byte 0x1B) := by decide
/-- V11. -/
theorem test_sbox : after (exec (.sbox 0x53) (idle0 [])) State.wire = some (.byte 0xED) := by decide
/-- V11. -/
theorem test_sbox_last : after (exec (.sbox 0xFE) (idle0 [])) State.wire = some (.byte 0xBB) := by decide
/-- V12. -/
theorem test_rotWord : after (exec (.rotWord 0x01020304) (idle0 [])) State.wire = some (.word 0x02030401) := by
  decide
/-- V12. -/
theorem test_subWord : after (exec (.subWord 0x00102030) (idle0 [])) State.wire = some (.word 0x63CAB704) := by
  decide
/-- 42_key_schedule.md R112. -/
theorem test_rcon_last : after (exec (.rcon 10) (idle0 [])) State.wire = some (.word 0x36000000) := by decide
theorem test_rcon_eleven_stops : goes (exec (.rcon 11) (idle0 [])) = false := by decide
/-- 42_key_schedule.md R113. -/
theorem test_keyWords : after (exec (.keyWords katKey) (idle0 [])) State.wire =
    some (.keyWords 0x00010203 0x04050607 0x08090a0b 0x0c0d0e0f) := by decide
/-- V12. -/
theorem test_nextWord_40 : after (exec (.nextWord 40 0xbe2c974e 0x549932d1) (idle0 [])) State.wire =
    some (.word 0x13111d7f) := by decide
/-- V12. -/
theorem test_nextWord_43 : after (exec (.nextWord 43 0xf307a78b 0xbe2c974e) (idle0 [])) State.wire =
    some (.word 0x4d2b30c5) := by decide
/-- V13, the words 40 to 43 of the second key. -/
theorem test_expandKeyFn : (List.range 4).map (fun i => expandWord (ofBus 0x2b7e151628aed2a6abf7158809cf4f3c) (40 + i)) =
    [0xd014f9a8, 0xc9ee2589, 0xe13f0cc8, 0xb6630ca6] := by decide
/-- V14. -/
theorem test_subBytes : after (exec .subBytes (idle0 [])) State.S = some (ofBus 0x63cab7040953d051cd60e0e7ba70e18c) := by
  decide
/-- V14. -/
theorem test_shiftRows : after (exec .shiftRows (idle0 [])) State.S = some (ofBus 0x0050a0f04090e03080d02070c01060b0) := by
  decide
/-- V14. -/
theorem test_mixColumns : after (exec .mixColumns (idle0 [])) State.S = some (ofBus 0x2070005060304010a0f080d0e0b0c090) := by
  decide
/-- V15, `ctl` 0b0001. -/
theorem test_addRoundKey : after (exec .addRoundKey (round 1 [])) State.S =
    some (ofBus 0xd6ba54cd92ff128a5a36d841167b960e) := by decide +kernel
/-- V14. -/
theorem test_mixColumn : after (exec (.mixColumn ⟨0xdb, 0x13, 0x53, 0x45⟩) (idle0 [])) State.wire =
    some (.column ⟨0x8e, 0x4d, 0xa1, 0xbc⟩) := by decide
/-- V14. -/
theorem test_mixColumn_uneven : after (exec (.mixColumn ⟨0x2d, 0x26, 0x31, 0x4c⟩) (idle0 [])) State.wire =
    some (.column ⟨0x4d, 0x7e, 0xbd, 0xf8⟩) := by decide
/-- V15. -/
theorem test_roundFn_final : after (exec (.roundFn 0b1101 katRound1 katRk1) (idle0 [])) State.wire =
    some (.block (ofBus 0xb5f99471dbcf93fe17d6cfa06c61a619)) := by decide
/-- V15. -/
theorem test_roundFn_three_stages : after (exec (.roundFn 0b1110 katRound1 katRk1) (idle0 [])) State.wire =
    some (.block (ofBus 0x5f72641557f5bc92f7be3b291db9f91a)) := by decide
/-- V16, the second full encryption. -/
theorem test_encryptBlockFn : after (exec (.encryptBlockFn (ofBus 0x3243f6a8885a308d313198a2e0370734)
    (expandKey (ofBus 0x2b7e151628aed2a6abf7158809cf4f3c))) (idle0 [])) State.wire =
    some (.block (ofBus 0x3925841d02dc09fbdc118597196a0b32)) := by decide +kernel
/-- V7: the all-zero key and plaintext give the non-zero ciphertext. -/
theorem test_encryptBlockFn_zero : encryptBlock noOperand (expandKey noOperand) =
    ofBus 0x66e94bd4ef8a2c3b884cfa59ca342b2e := by decide +kernel

/-! ### The sequencer: 95_test_vectors.md P1 -/

/-- P1 step 3: `W[4] = d6aa74fd`. -/
theorem test_seqKexp_first : after (exec .seqKexp (kexp 4 [])) (fun t => (t.PHASE, t.KI, t.KVALID, rkWord t.RK 4)) =
    some (.kexp, 5, false, 0xd6aa74fd) := by decide +kernel
/-- P1 step 42: `W[43] = 4d2b30c5`, `KVALID` set. -/
theorem test_kxStep_last : after (exec .kxStep (kexp 43 [])) (fun t => (t.PHASE, t.KI, t.KVALID, rkWord t.RK 43)) =
    some (.idle, 44, true, 0x4d2b30c5) := by decide +kernel
/-- P1 step 44. -/
theorem test_seqInitial : after (exec .seqInitial ((initial []).writeS katPlain)) (fun t => (t.PHASE, t.RND, t.S)) =
    some (.round, 1, katRound1) := by decide +kernel
/-- P1 step 45. -/
theorem test_seqRound_first : after (exec .seqRound (round 1 [])) (fun t => (t.PHASE, t.RND, t.S)) =
    some (.round, 2, ofBus 0x89d810e8855ace682d1843d8cb128fe4) := by decide +kernel
/-- P1 step 53. -/
theorem test_seqRound_ninth : after (exec .seqRound ((round 9 []).writeS (ofBus 0xfde3bad205e5d0d73547964ef1fe37f1)))
    (fun t => (t.PHASE, t.RND, t.S)) = some (.final, 10, ofBus 0xbd6e7c3df2b5779e0b61216e8b10b689) := by decide +kernel
/-- P1 step 54. -/
theorem test_seqFinal : after (exec .seqFinal ((final []).writeS (ofBus 0xbd6e7c3df2b5779e0b61216e8b10b689)))
    (fun t => (t.PHASE, t.RND, t.S)) = some (.done, 10, ofBus 0x69c4e0d86a7b0430d8cdb78070b4c55a) := by decide +kernel
/-- P1 step 55. -/
theorem test_seqDone : exec .seqDone (done []) = .next (done []) := rfl
theorem test_seqIdle : exec .seqIdle (idle0 []) = .next (idle0 []) := rfl
theorem test_seqIdle_in_another_phase_stops : exec .seqIdle (done []) = .fault .stuck := rfl
/-- 42_key_schedule.md R118. -/
theorem test_kxLoad : after (exec (.kxLoad katPlain) (done [])) (fun t => (t.PHASE, t.KI, t.KVALID, rkWord t.RK 3, rkWord t.RK 4)) =
    some (.kexp, 4, false, 0xccddeeff, 0xd6aa74fd) := by decide +kernel
/-- 44_cipher_driver.md R154. -/
theorem test_encLoad : after (exec (.encLoad katPlain) (done [])) (fun t => (t.PHASE, t.RND, t.S)) =
    some (.initial, 0, katPlain) := by decide

/-! ### Commands: 95_test_vectors.md V18 and P3 -/

/-- V18: `NOP` while busy lets the sequencer advance. -/
theorem test_nop_busy : after (step (kexp 4 [cmd 0x1F katKey])) (fun t => (t.KI, t.ERR, t.EFLAG)) =
    some (5, .accepted, false) := by decide
/-- V18: a re-key from `DONE`; the ciphertext stays in `S` (P2 step 13). -/
theorem test_expandKey_from_done : after (step (done [cmd 0x30 katPlain]))
    (fun t => ((t.PHASE, t.RND, t.KI), t.KVALID, t.S, t.done)) = some ((.kexp, 10, 4), false, katRound1, false) := by
  decide
/-- V18: `Busy` outranks `InvalidLength`, and the expansion advances. -/
theorem test_expandKey_busy : after (step (kexp 6 [cmd 0x2F katKey])) (fun t => (t.KI, t.errOut, t.EFLAG)) =
    some (7, 3, true) := by decide
/-- V18: accepted. -/
theorem test_encryptBlock : after (step (idleKey [cmd 0x50 katPlain])) (fun t => (t.PHASE, t.RND, t.S, t.errOut, t.EFLAG)) =
    some (.initial, 0, katPlain, 0, false) := by decide
/-- V18: `InvalidLength` outranks `NoKey`. -/
theorem test_encryptBlock_bad_length : after (step (idle0 [cmd 0x4F katPlain])) (fun t => (t.PHASE, t.errOut, t.EFLAG)) =
    some (.idle, 1, true) := by decide
/-- V18: `IllegalCommand` outranks `Busy`, and the sequencer advances. -/
theorem test_reservedOp3_busy : after (step (kexp 5 [cmd 0x7F katKey])) (fun t => (t.KI, t.errOut, t.EFLAG)) =
    some (6, 2, true) := by decide
/-- V18. -/
theorem test_reservedOp47 : after (step (idle0 [cmd 0xF0 katKey])) (fun t => (t.PHASE, t.errOut)) = some (.idle, 2) := by
  decide
/-- P4 step 8: reset wins over a command. -/
theorem test_reset_over_command : after (step (kexp 9 [⟨true, true, 0x50, katPlain⟩]))
    (fun t => (t.PHASE, t.RND, t.KI, t.KVALID, t.errOut, t.EFLAG)) = some (.idle, 0, 0, false, 0, false) := by
  decide

/-! ### Witnesses: the hypotheses of the statements can be met, clause by clause, at the ends of their ranges -/

/-- The known-answer schedule follows the recurrence up to any word. -/
theorem kat_expandedBelow (n : Nat) (h : n ≤ 44) : Safety.expandedBelow (expandKey katKey) n := by
  intro i h4 hn
  rw [rkWord_expandKey _ (by omega), rkWord_expandKey _ (by omega), rkWord_expandKey _ (by omega)]
  obtain ⟨m, rfl⟩ : ∃ m, i = m + 4 := ⟨i - 4, by omega⟩
  exact expandWord_next katKey m

theorem st_inv (p : Phase) (rnd : BitVec 4) (ki : BitVec 6) (kv : Bool) (ps : List PortSample)
    (h : (st p rnd ki kv ps).wf) : Safety.Inv (st p rnd ki kv ps) := by
  refine ⟨h, fun _ => kat_expandedBelow 44 le_rfl, fun _ => kat_expandedBelow ki.toNat ?_⟩
  have := h.2.1
  simp only [st] at this
  omega

/-- One legal state of each phase, with the counters at both ends; for `NopRunsTheSequencer` and
`ReservedCommandsAreIllegal` too. -/
theorem witness_LegalStatesNeverStop :
    (idle0 []).wf ∧ (idleKey []).wf ∧ (kexp 4 []).wf ∧ (kexp 43 []).wf ∧ (initial []).wf ∧ (round 1 []).wf ∧ (round 9 []).wf
      ∧ (final []).wf ∧ (done []).wf :=
  ⟨by decide, by decide, by decide, by decide, by decide, by decide, by decide, by decide, by decide⟩

theorem witness_CommandWordsAreClassified :
    (0x1F#8).toNat ≤ 0x1F ∧ (0x30#8).toNat = 0x30 ∧ 0x20 ≤ (0x20#8).toNat ∧ (0x3F#8).toNat ≤ 0x3F ∧ (0x3F#8).toNat ≠ 0x30
      ∧ (0x50#8).toNat = 0x50 ∧ 0x40 ≤ (0x40#8).toNat ∧ (0x5F#8).toNat ≤ 0x5F ∧ (0x5F#8).toNat ≠ 0x50
      ∧ 0x60 ≤ (0x60#8).toNat ∧ 0x60 ≤ (0xFF#8).toNat := by decide

theorem witness_DecodingUndoesEncoding :
    encode (.encryptBlock 16 katPlain) = some (.cmd 0x50 katPlain) ∧ encode (.reservedOp47 3 31) = some (.cmd 0xFF noOperand)
      ∧ encode .seqDone = some (.seq 5) ∧ encode .shiftRows = some (.rctl 4) := by decide

theorem witness_EncodingUndoesDecoding :
    opField 0x30#8 = 1 ∧ opField 0x5F#8 = 2 ∧ decode (.pin 1) = .ok .reset ∧ decode (.seq 5) = .ok .seqDone
      ∧ decode (.rctl 8) = .ok .subBytes := ⟨by decide, by decide, rfl, rfl, rfl⟩

theorem witness_StepRunsTheDecodedInstruction :
    (idle0 [⟨true, false, 0, noOperand⟩]).port.rst = true
      ∧ ((kexp 4 [cmd 0x30 katKey]).port.rst = false ∧ (kexp 4 [cmd 0x30 katKey]).wf
        ∧ (kexp 4 [cmd 0x30 katKey]).port.cmdValid = true)
      ∧ (round 9 []).port.rst = false ∧ (round 9 []).wf ∧ (round 9 []).port.cmdValid = false := by decide

theorem witness_SequencerInvariantsHoldAndAreKept :
    ((kexp 43 []).wf ∧ goes (step (kexp 43 [])) = true) ∧ (st .round 0 0 false [⟨true, true, 0x30, katKey⟩]).port.rst = true
      ∧ ¬ (st .round 0 0 false []).wf ∧ (st .round 0 0 false []).port.rst = false
      ∧ ¬ (st .idle 11 0 false []).wf ∧ ¬ (st .idle 0 3 false []).wf :=
  ⟨⟨by decide, by decide⟩, by decide, by decide, by decide, by decide, by decide⟩

theorem witness_ScheduleInvariantIsKept :
    (Safety.Inv (kexp 43 []) ∧ ∃ t, step (kexp 43 []) = .next t)
      ∧ (Safety.Inv (done [cmd 0x30 katPlain]) ∧ ∃ t, step (done [cmd 0x30 katPlain]) = .next t)
      ∧ Safety.Inv (round 9 []) ∧ ∃ t, step (round 9 []) = .next t :=
  ⟨⟨st_inv _ _ _ _ _ (by decide), goes_next (by decide)⟩, ⟨st_inv _ _ _ _ _ (by decide), goes_next (by decide)⟩,
    st_inv _ _ _ _ _ (by decide), goes_next (by decide)⟩

theorem witness_ValidScheduleIsTheKeysExpansion : Safety.Inv (done []) ∧ (done []).KVALID = true :=
  ⟨st_inv _ _ _ _ _ (by decide), rfl⟩

theorem witness_ResetStepLeavesTheResetState :
    (kexp 9 [⟨true, true, 0x50, katPlain⟩]).port.rst = true ∧ (st .round 0 0 false [⟨true, false, 0, katKey⟩]).port.rst = true
      ∧ (⟨true, true, 0x50, katPlain⟩ : PortSample).rst = true ∧ (⟨true, false, 0, katKey⟩ : PortSample).rst = true := by decide

theorem witness_ResetCompletesEverywhere :
    (kexp 9 []).PHASE ≠ (done []).PHASE ∧ (kexp 9 []).inputs = (done []).inputs
      ∧ (kexp 9 []).wire = (done []).wire ∧ (kexp 9 []).resets = (done []).resets := by decide

theorem witness_NopStepEqualsStepWithoutCommand :
    idlePort.rst = false ∧ (cmd 0x1F katKey).rst = false ∧ idlePort.cmdValid = false ∧ opField (cmd 0x1F katKey).cmd = 0
      ∧ (kexp 4 []).wf ∧ goes (step ((kexp 4 []).offer [idlePort])) = true := by decide

theorem witness_DinIsReadOnlyOnAcceptance :
    ¬ ((cmd 0x50 katKey).rst = false ∧ (cmd 0x50 katKey).cmdValid = true ∧ (idle0 []).busy = false
      ∧ ((cmd 0x50 katKey).cmd = 0x30#8 ∨ ((cmd 0x50 katKey).cmd = 0x50#8 ∧ (idle0 []).KVALID = true)))
    ∧ ¬ ((cmd 0x30 katKey).rst = false ∧ (cmd 0x30 katKey).cmdValid = true ∧ (kexp 4 []).busy = false
      ∧ ((cmd 0x30 katKey).cmd = 0x30#8 ∨ ((cmd 0x30 katKey).cmd = 0x50#8 ∧ (kexp 4 []).KVALID = true))) := by decide

theorem witness_ControlNeverDependsOnData :
    (round 9 [cmd 0x30 katKey]).S ≠ ((round 9 [cmd 0x30 katPlain]).writeS katPlain).S
      ∧ (round 9 [cmd 0x30 katKey]).PHASE = ((round 9 [cmd 0x30 katPlain]).writeS katPlain).PHASE
      ∧ (round 9 [cmd 0x30 katKey]).RND = ((round 9 [cmd 0x30 katPlain]).writeS katPlain).RND
      ∧ (round 9 [cmd 0x30 katKey]).KI = ((round 9 [cmd 0x30 katPlain]).writeS katPlain).KI
      ∧ (round 9 [cmd 0x30 katKey]).KVALID = ((round 9 [cmd 0x30 katPlain]).writeS katPlain).KVALID
      ∧ (round 9 [cmd 0x30 katKey]).ERR = ((round 9 [cmd 0x30 katPlain]).writeS katPlain).ERR
      ∧ (round 9 [cmd 0x30 katKey]).EFLAG = ((round 9 [cmd 0x30 katPlain]).writeS katPlain).EFLAG
      ∧ (round 9 [cmd 0x30 katKey]).port.rst = ((round 9 [cmd 0x30 katPlain]).writeS katPlain).port.rst
      ∧ (round 9 [cmd 0x30 katKey]).port.cmdValid = ((round 9 [cmd 0x30 katPlain]).writeS katPlain).port.cmdValid
      ∧ (round 9 [cmd 0x30 katKey]).port.cmd = ((round 9 [cmd 0x30 katPlain]).writeS katPlain).port.cmd
      ∧ goes (step (round 9 [cmd 0x30 katKey])) = true
      ∧ goes (step ((round 9 [cmd 0x30 katPlain]).writeS katPlain)) = true := by decide

/-- Both accepting clauses and the six phases, with the counters at both ends (they are legal
by `witness_LegalStatesNeverStop`). -/
theorem witness_PhasesFollowTheTransitionTable :
    (goes (step (idle0 [cmd 0x30 katKey])) && goes (step (done [cmd 0x50 katKey])) && goes (step (idle0 []))
      && goes (step (kexp 4 [])) && goes (step (kexp 43 [])) && goes (step (initial [])) && goes (step (round 1 []))
      && goes (step (round 9 [])) && goes (step (final [])) && goes (step (done []))) = true
    ∧ (idle0 [cmd 0x30 katKey]).busy = false ∧ (done [cmd 0x50 katKey]).busy = false
    ∧ (done [cmd 0x50 katKey]).KVALID = true := by decide

/-- A reset step, a step without a command, and one for each code. -/
theorem witness_ErrAndEflagRecordTheCommand :
    after (step (kexp 9 [⟨true, true, 0x60, katKey⟩])) State.errOut = some 0
      ∧ Safety.presents (idle0 [cmd 0x1F katKey]).port = false ∧ goes (step (idle0 [cmd 0x1F katKey])) = true ∧ Safety.presents (idle0 [cmd 0x60 katKey]).port = true
      ∧ after (step (idle0 [cmd 0x60 katKey])) State.errOut = some 2
      ∧ after (step (round 1 [cmd 0x50 katKey])) State.errOut = some 3
      ∧ after (step (idle0 [cmd 0x31 katKey])) State.errOut = some 1
      ∧ after (step (idle0 [cmd 0x50 katKey])) State.errOut = some 4
      ∧ after (step (idle0 [cmd 0x30 katKey])) State.errOut = some 0 := by decide

/-- Each way `S` changes, and each way a byte of `RK` does, at the ends of the bytes written. -/
theorem witness_DataRegistersHaveOneWriter :
    after (step (idleKey [cmd 0x50 katPlain])) (fun t => t.S != katRound1) = some true
      ∧ after (step ((initial []).writeS katPlain)) (fun t => t.S != katPlain) = some true
      ∧ after (step (round 1 [])) (fun t => t.S != katRound1) = some true
      ∧ after (step (final [])) (fun t => t.S != katRound1) = some true
      ∧ after (step (idle0 [cmd 0x30 (ofBus 0xff0000000000000000000000000000ff)]))
          (fun t => (rkByte t.RK 0 != 0x00, rkByte t.RK 15 != 0x0f)) = some (true, true)
      ∧ after (step { kexp 4 [] with RK := Vector.ofFn fun _ => 1 })
          (fun t => (rkByte t.RK 16 != 1, rkByte t.RK 19 != 1)) = some (true, true) := by decide +kernel

theorem witness_EncryptionNeverMutatesTheSchedule :
    (round 1 [cmd 0x30 katKey]).port.rst = false ∧ (round 1 [cmd 0x30 katKey]).PHASE ≠ .kexp
      ∧ ¬ ((round 1 [cmd 0x30 katKey]).port.cmdValid = true ∧ (round 1 [cmd 0x30 katKey]).port.cmd = 0x30#8
        ∧ (round 1 [cmd 0x30 katKey]).busy = false)
      ∧ goes (step (round 1 [cmd 0x30 katKey])) = true ∧ goes (step (done [])) = true := by decide

theorem witness_ExpandKeyLoadsTheKey : (idle0 []).busy = false ∧ (done []).busy = false := by decide

theorem witness_EncryptBlockLoadsThePlaintext : (done []).busy = false ∧ (done []).KVALID = true := by decide

theorem witness_RejectionsFollowThePriority :
    (kexp 4 []).busy = true ∧ (done []).busy = false ∧ (15#5) ≠ 16 ∧ (31#5) ≠ 16 ∧ (idle0 []).busy = false
      ∧ (idle0 []).KVALID = false := by decide

theorem witness_RejectionDisturbsNothing :
    (cmd 0x2F katKey).rst = false ∧ idlePort.rst = false ∧ idlePort.cmdValid = false
      ∧ goes (step ((kexp 4 []).offer [idlePort])) = true ∧ Safety.presents (cmd 0x2F katKey) = true
      ∧ after (step ((kexp 4 []).offer [cmd 0x2F katKey])) State.ERR = some (.rejected .busy) := by decide

theorem witness_IdleAndDoneChangeNothing : (idle0 []).PHASE = .idle ∧ (done []).PHASE = .done := by decide

theorem witness_UnselectedMicroOperationsStop :
    (done []).PHASE ≠ .idle ∧ (idle0 []).PHASE ≠ .done ∧ ¬ (4 ≤ (st .kexp 0 3 false []).KI.toNat)
      ∧ ¬ ((st .kexp 0 44 false []).KI.toNat ≤ 43) ∧ (st .initial 1 44 true []).RND.toNat ≠ 0
      ∧ ¬ (1 ≤ (st .round 0 44 true []).RND.toNat) ∧ ¬ ((st .round 10 44 true []).RND.toNat ≤ 9)
      ∧ (st .final 9 44 true []).RND.toNat ≠ 10 := by decide

theorem witness_KxStepWritesOneWord :
    (kexp 4 []).PHASE = .kexp ∧ 4 ≤ (kexp 4 []).KI.toNat ∧ (kexp 43 []).PHASE = .kexp ∧ (kexp 43 []).KI.toNat ≤ 43
      ∧ (kexp 43 []).KI.toNat = 43 := by decide

theorem witness_SeqInitialAddsRoundKeyZero : (initial []).PHASE = .initial ∧ (initial []).RND = 0 := by decide

theorem witness_SeqRoundAppliesAllStages :
    (round 1 []).PHASE = .round ∧ 1 ≤ (round 1 []).RND.toNat ∧ (round 9 []).PHASE = .round ∧ (round 9 []).RND.toNat ≤ 9 := by
  decide

theorem witness_SeqFinalOmitsColumnMixing : (final []).PHASE = .final ∧ (final []).RND.toNat = 10 := by decide

/-- For `StageWordRunsItsStagesInOrder` too. -/
theorem witness_AddRoundKeyXorsByteForByte : (idle0 []).RND.toNat ≤ 10 ∧ (final []).RND.toNat ≤ 10 := by decide

theorem witness_FieldLaws : (1 : Byte) ≠ 0 ∧ (0xFF : Byte) ≠ 0 ∧ gmul 0x53 0 = 0 ∧ gmul 0 0x53 = 0 := by decide

/-- V10: a pair of inverses. -/
theorem witness_SboxIsTheAffineImageOfTheInverse : (0x53 : Byte) ≠ 0 ∧ gmul 0x53 0xCA = 1 := by decide

theorem witness_RconHoldsThePowersOfTwo : 1 ≤ (1#4).toNat ∧ (10#4).toNat ≤ 10 := by decide

theorem witness_NextWordIsTheRecurrence :
    4 ≤ (4#6).toNat ∧ (4#6).toNat % 4 = 0 ∧ (43#6).toNat ≤ 43 ∧ (43#6).toNat % 4 ≠ 0 ∧ (40#6).toNat % 4 = 0 := by decide

theorem witness_MissingEntriesStop :
    10 < (11#4).toNat ∧ (3#6).toNat < 4 ∧ 43 < (44#6).toNat ∧ 10 < (st .idle 11 0 false []).RND.toNat := by decide

theorem witness_ExpandKeyFnIsTheSchedule : 4 ≤ 4 ∧ 43 ≤ 43 := by decide

/-- For the round index of `EncryptBlockFnIsTheCipher` too. -/
theorem witness_RoundKeysFollowFromTheOneBefore : 1 ≤ 1 ∧ 10 ≤ 10 := by decide

/-- A run: the command, then samples without reset; the first list presents a command that will be rejected, the
second nothing but `NOP`. -/
theorem witness_KeyExpansionEqualsItsFunction :
    (done [cmd 0x30 katPlain, cmd 0x50 katKey]).wf ∧ (done [cmd 0x30 katPlain, cmd 0x50 katKey]).busy = false
      ∧ (done [cmd 0x30 katPlain, cmd 0x50 katKey]).inputs = cmd 0x30 katPlain :: [cmd 0x50 katKey]
      ∧ (cmd 0x30 katPlain).rst = false ∧ (cmd 0x30 katPlain).cmdValid = true ∧ (cmd 0x30 katPlain).cmd = 0x30#8
      ∧ Safety.noReset (([cmd 0x50 katKey] : List PortSample).take 40)
      ∧ Safety.noReset (([cmd 0x1F katKey] : List PortSample).take 40)
      ∧ ∀ q ∈ ([cmd 0x1F katKey] : List PortSample).take 40, Safety.presents q = false := by
  refine ⟨by decide, by decide, rfl, rfl, rfl, rfl, ?_, ?_, ?_⟩ <;> simp [Safety.noReset, Safety.presents, cmd]
  decide

theorem witness_EncryptionEqualsItsFunction :
    (done [cmd 0x50 katPlain, cmd 0x30 katKey]).wf ∧ (done [cmd 0x50 katPlain, cmd 0x30 katKey]).busy = false
      ∧ (done [cmd 0x50 katPlain, cmd 0x30 katKey]).inputs = cmd 0x50 katPlain :: [cmd 0x30 katKey]
      ∧ (cmd 0x50 katPlain).rst = false ∧ (cmd 0x50 katPlain).cmdValid = true
      ∧ (done [cmd 0x50 katPlain, cmd 0x30 katKey]).KVALID = true ∧ (cmd 0x50 katPlain).cmd = 0x50#8
      ∧ Safety.noReset (([cmd 0x30 katKey] : List PortSample).take 11) := by
  refine ⟨by decide, by decide, rfl, rfl, rfl, rfl, rfl, ?_⟩
  simp [Safety.noReset, cmd]

/-- The hypotheses of the two run statements together, at both ends of the step count. -/
theorem witness_OperationsTakeTheirStepCounts :
    (idle0 [cmd 0x30 katPlain, cmd 0x50 katKey]).wf ∧ (idle0 [cmd 0x30 katPlain, cmd 0x50 katKey]).busy = false
      ∧ Safety.noReset (([cmd 0x50 katKey] : List PortSample).take 40)
      ∧ (idleKey [cmd 0x50 katPlain]).wf ∧ (idleKey [cmd 0x50 katPlain]).busy = false
      ∧ (idleKey [cmd 0x50 katPlain]).KVALID = true ∧ Safety.noReset (([] : List PortSample).take 11) := by
  refine ⟨by decide, by decide, ?_, by decide, by decide, rfl, ?_⟩ <;> simp [Safety.noReset, cmd]

end Sys2Proof.Tests
end

section
/-! PROOF. The sequencer and schedule invariants of 10_state.md R29, R31, update by update, then for every step. -/

namespace Sys2Proof.Machine

/-! ### The counters -/

theorem KI_succ_toNat {s : State} (h : s.KI.toNat ≤ 43) : (s.KI + 1).toNat = s.KI.toNat + 1 := by bv_omega

/-! ### Every update of a step keeps the sequencer invariants -/

theorem State.resetStep_wf (s : State) : s.resetStep.wf := by simp [State.wf]

theorem State.accept_wf (s : State) : s.accept.wf ↔ s.wf := State.wf_congr rfl rfl rfl rfl

theorem State.kxLoad_wf {s : State} (h : s.wf) (din : Block) : (s.kxLoad din).wf := by
  obtain ⟨hrnd, -⟩ := h
  simp [State.wf, hrnd]

theorem State.encLoad_wf {s : State} (h : s.wf) (hv : s.KVALID = true) (din : Block) : (s.encLoad din).wf := by
  obtain ⟨-, -, -, -, -, -, -, hvalid, -⟩ := h
  simp [State.wf, hv, hvalid hv]

theorem State.kxStep_wf {s : State} (h : s.wf) (hp : s.PHASE = .kexp) : s.kxStep.wf := by
  obtain ⟨hrnd, -, -, -, -, -, hkexp, -, -⟩ := h
  obtain ⟨h4, h43, hv⟩ := hkexp hp
  by_cases hlast : s.KI.toNat = 43
  · simp [State.wf, hrnd, hlast]
  · simp [State.wf, hrnd, hlast, hp, hv]
    omega

theorem State.seqInitial_wf {s : State} (h : s.wf) (hp : s.PHASE = .initial) : s.seqInitial.wf := by
  obtain ⟨-, -, -, -, -, -, -, hvalid, henc⟩ := h
  have hv := henc (by simp [hp])
  simp [State.wf, hv, hvalid hv]

theorem State.seqRound_wf {s : State} (h : s.wf) (hp : s.PHASE = .round) : s.seqRound.wf := by
  obtain ⟨-, -, -, hround, -, -, -, hvalid, henc⟩ := h
  have hv := henc (by simp [hp])
  obtain ⟨h1, h9⟩ := hround hp
  by_cases hlast : s.RND.toNat = 9
  · simp [State.wf, hv, hvalid hv, hlast]
  · simp [State.wf, hv, hvalid hv, hlast, hp]
    omega

theorem State.seqFinal_wf {s : State} (h : s.wf) (hp : s.PHASE = .final) : s.seqFinal.wf := by
  obtain ⟨-, -, -, -, hfinal, -, -, hvalid, henc⟩ := h
  have hv := henc (by simp [hp])
  simp [State.wf, hv, hvalid hv, hfinal hp]

theorem seqOp_wf {s t : State} (hw : s.wf) (h : seqOp s = .next t) : t.wf := by
  rcases seqOp_cases h with ⟨-, rfl⟩ | ⟨hp, -, rfl⟩ | ⟨hp, -, rfl⟩ | ⟨hp, -, -, rfl⟩ | ⟨hp, -, rfl⟩ | ⟨-, rfl⟩
  · exact hw
  · exact State.kxStep_wf hw hp
  · exact State.seqInitial_wf hw hp
  · exact State.seqRound_wf hw hp
  · exact State.seqFinal_wf hw hp
  · exact hw

/-- The next state is legal without a premise on `s`: a step that goes on is a reset or starts in a legal state. -/
theorem step_wf {s t : State} (h : step s = .next t) : t.wf := by
  rcases step_cases h with ⟨-, rfl⟩ | ⟨-, hw, ⟨hs, -⟩ | ⟨k, hs, -⟩ | ⟨rfl, -⟩ | ⟨rfl, -, -, -, hv⟩⟩
  · exact State.resetStep_wf _
  · exact seqOp_wf (s.sampled_wf.2 hw) hs
  · exact seqOp_wf ((State.reject_wf _ k).2 (s.sampled_wf.2 hw)) hs
  · exact State.kxLoad_wf ((State.accept_wf _).2 (s.sampled_wf.2 hw)) _
  · exact State.encLoad_wf ((State.accept_wf _).2 (s.sampled_wf.2 hw)) hv _

theorem State.reset_wf : State.reset.wf := by decide

/-- Settles O8: from `step_wf`; a reset step always goes on, and in an illegal state nothing else does. -/
theorem sequencerInvariantsHoldAndAreKept : Obligations.SequencerInvariantsHoldAndAreKept :=
  ⟨State.reset_wf, fun _ _ _ h => step_wf h, fun s hr => ⟨_, step_of_rst hr, s.sampled.resetStep_wf⟩,
    fun _ hw hr => step_of_not_wf hr hw⟩

/-! ### The schedule invariant -/

/-- What a `KX_STEP` at `KI = n` writes extends the correct part of the schedule (42_key_schedule.md R119): the words
below `n`, and the words each of them comes from, are other words than the one written. -/
theorem expandedBelow_writeWord {k : Schedule} {n : Nat} (h4 : 4 ≤ n) (h43 : n < 44) (h : Safety.expandedBelow k n) :
    Safety.expandedBelow (rkWriteWord k n (nextWord n (rkWord k (n - 1)) (rkWord k (n - 4)))) (n + 1) := by
  intro i hi4 hin
  rw [rkWord_writeWord_other k h43 (n := i - 1) (by omega), rkWord_writeWord_other k h43 (n := i - 4) (by omega)]
  rcases Nat.lt_succ_iff_lt_or_eq.1 hin with hlt | rfl
  · rw [rkWord_writeWord_other k h43 hlt.ne]
    exact h i hi4 hlt
  · exact rkWord_writeWord_same k h43 _

theorem expandedBelow_four (k : Schedule) : Safety.expandedBelow k 4 := fun _ h4 hlt => absurd hlt (by omega)

/-- The frame rule of the schedule invariant: it reads `RK`, `KVALID`, and during an expansion `KI`. -/
theorem scheduleOk_of_RK_eq {s t : State} (h : Safety.scheduleOk s) (hk : t.RK = s.RK) (hv : t.KVALID = s.KVALID)
    (hp : t.PHASE = .kexp → s.PHASE = .kexp ∧ t.KI = s.KI) : Safety.scheduleOk t := by
  obtain ⟨hvalid, hkexp⟩ := h
  refine ⟨fun e => hk ▸ hvalid (hv ▸ e), fun e => ?_⟩
  obtain ⟨hs, hki⟩ := hp e
  rw [hk, hki]
  exact hkexp hs

theorem State.kxStep_scheduleOk {s : State} (hw : s.wf) (h : Safety.scheduleOk s) (hp : s.PHASE = .kexp) :
    Safety.scheduleOk s.kxStep := by
  obtain ⟨-, -, -, -, -, -, hkexp, -, -⟩ := hw
  obtain ⟨h4, h43, hv⟩ := hkexp hp
  obtain ⟨-, hbelow⟩ := h
  have hnext := expandedBelow_writeWord h4 (by omega) (hbelow hp)
  by_cases hlast : s.KI.toNat = 43
  · refine ⟨fun _ => ?_, fun e => ?_⟩
    · simpa [hlast] using hnext
    · simp [hlast] at e
  · refine ⟨fun e => ?_, fun _ => ?_⟩
    · simp [hlast, hv] at e
    · rw [State.kxStep_RK, State.kxStep_KI, KI_succ_toNat h43]
      exact hnext

/-- `KX_STEP` extends the correct part of the schedule, the other micro-operations leave `RK` alone. -/
theorem seqOp_scheduleOk {s t : State} (hw : s.wf) (hs : Safety.scheduleOk s) (h : seqOp s = .next t) :
    Safety.scheduleOk t := by
  rcases seqOp_cases h with ⟨-, rfl⟩ | ⟨hp, -, rfl⟩ | ⟨hp, -, rfl⟩ | ⟨hp, -, -, rfl⟩ | ⟨hp, -, rfl⟩ | ⟨-, rfl⟩
  · exact hs
  · exact State.kxStep_scheduleOk hw hs hp
  · exact scheduleOk_of_RK_eq hs rfl rfl (by simp)
  · exact scheduleOk_of_RK_eq hs rfl rfl (by simp only [State.seqRound_PHASE, hp]; split_ifs <;> simp)
  · exact scheduleOk_of_RK_eq hs rfl rfl (by simp)
  · exact hs

theorem State.resetStep_scheduleOk (s : State) : Safety.scheduleOk s.resetStep := by simp [Safety.scheduleOk]

theorem State.kxLoad_scheduleOk (s : State) (din : Block) : Safety.scheduleOk (s.kxLoad din) :=
  ⟨fun e => by simp at e, fun _ => expandedBelow_four _⟩

theorem step_scheduleOk {s t : State} (hs : Safety.scheduleOk s) (h : step s = .next t) : Safety.scheduleOk t := by
  rcases step_cases h with ⟨-, rfl⟩ | ⟨-, hw, ⟨ht, -⟩ | ⟨k, ht, -⟩ | ⟨rfl, -⟩ | ⟨rfl, -⟩⟩
  · exact State.resetStep_scheduleOk _
  · exact seqOp_scheduleOk (s.sampled_wf.2 hw) hs ht
  · exact seqOp_scheduleOk ((State.reject_wf _ k).2 (s.sampled_wf.2 hw)) hs ht
  · exact State.kxLoad_scheduleOk _ _
  · exact scheduleOk_of_RK_eq hs rfl rfl (by simp)

/-- Settles O9: each half is kept by every step. -/
theorem scheduleInvariantIsKept : Obligations.ScheduleInvariantIsKept :=
  fun _ _ ⟨_, hs⟩ h => ⟨step_wf h, step_scheduleOk hs h⟩

end Sys2Proof.Machine
end

section
/-! PROOF. Ports, status registers, writers, reset and outputs (10_state.md R21, R23, R31 to R40). -/

namespace Sys2Proof.Machine

/-! ### A port drawn as a bus -/

/-- The drawing puts word 0 in bits 127:96 and word 3 in bits 31:0. -/
theorem busOf_word (b : Block) (c : Fin 4) : (busOf b).extractLsb' (32 * (3 - c.val)) 32 = blockWord b c := by
  unfold busOf
  match c with
  | 0 =>
    rw [BitVec.extractLsb'_append_eq_of_le (by decide), BitVec.extractLsb'_append_eq_of_le (by decide)]
    exact BitVec.extractLsb'_append_eq_left
  | 1 =>
    rw [BitVec.extractLsb'_append_eq_of_le (by decide), BitVec.extractLsb'_append_eq_of_le (by decide)]
    exact BitVec.extractLsb'_append_eq_right
  | 2 =>
    rw [BitVec.extractLsb'_append_eq_of_le (by decide)]
    exact BitVec.extractLsb'_append_eq_right
  | 3 => exact BitVec.extractLsb'_append_eq_right

/-- Byte `j` of word `c` of a bus is byte `4c + j` of the bus. -/
theorem byteOf_bus_word (x : BitVec 128) (c j : Fin 4) :
    byteOf j.val (x.extractLsb' (32 * (3 - c.val)) 32) = x.extractLsb' (120 - 8 * (4 * c.val + j.val)) 8 := by
  ext i hi
  have hlt : 8 * (3 - j.val) + i < 32 := by omega
  have hpos : 32 * (3 - c.val) + (8 * (3 - j.val) + i) = 120 - 8 * (4 * c.val + j.val) + i := by omega
  simp [byteOf, hlt, hpos]

/-- R37: byte `i` of the drawing. -/
theorem busOf_byte (b : Block) (i : Fin 16) : (busOf b).extractLsb' (120 - 8 * i.val) 8 = b[i] := by
  have h := byteOf_bus_word (busOf b) ⟨i.val / 4, by omega⟩ ⟨i.val % 4, by omega⟩
  have hi : 4 * (i.val / 4) + i.val % 4 = i.val := by omega
  rw [busOf_word, byteOf_blockWord _ _ (by omega)] at h
  simpa [hi] using h.symm

theorem ofBus_getElem (x : BitVec 128) (i : Fin 16) : (ofBus x)[i] = x.extractLsb' (120 - 8 * i.val) 8 := by
  have : 8 * (15 - i.val) = 120 - 8 * i.val := by omega
  simp [ofBus, this]

/-- A bus is its 16 bytes. -/
theorem bus_ext {x y : BitVec 128}
    (h : ∀ i : Fin 16, x.extractLsb' (120 - 8 * i.val) 8 = y.extractLsb' (120 - 8 * i.val) 8) : x = y := by
  apply BitVec.eq_of_getLsbD_eq
  intro n hn
  have e := congrArg (·.getLsbD (n % 8)) (h ⟨15 - n / 8, by omega⟩)
  have hpos : 120 - 8 * (15 - n / 8) + n % 8 = n := by omega
  have hlt : n % 8 < 8 := by omega
  simpa [hpos, hlt] using e

theorem ofBus_busOf (b : Block) : ofBus (busOf b) = b := by
  apply Vector.ext
  intro i hi
  exact (ofBus_getElem _ ⟨i, hi⟩).trans (busOf_byte b ⟨i, hi⟩)

theorem busOf_ofBus (x : BitVec 128) : busOf (ofBus x) = x :=
  bus_ext fun i => (busOf_byte _ i).trans (ofBus_getElem x i)

/-- Settles O5: the drawing byte by byte, and from that both round trips. -/
theorem busDrawsByteZeroHighest : Obligations.BusDrawsByteZeroHighest := ⟨busOf_byte, ofBus_busOf, busOf_ofBus⟩

/-! ### A schedule that follows the recurrence is an expansion -/

theorem blockWord_roundKey (k : Schedule) (r : Nat) (c : Fin 4) :
    blockWord (rkRoundKey k r) c = rkWord k (4 * r + c.val) := by
  apply word_ext
  intro j hj
  rw [byteOf_blockWord _ c hj, byteOf_rkWord k _ hj, rkRoundKey_getElem]
  congr 1
  omega

/-- 42_key_schedule.md R115: the first four words and the recurrence determine every word below `n`. -/
theorem rkWord_eq_expandWord {k : Schedule} {K : Block} {n : Nat} (hkey : ∀ c : Fin 4, rkWord k c.val = blockWord K c)
    (h : Safety.expandedBelow k n) (i : Nat) (hi : i < n) : rkWord k i = expandWord K i := by
  induction i using Nat.strong_induction_on with
  | _ i ih =>
    by_cases h4 : i < 4
    · exact (hkey ⟨i, h4⟩).trans (expandWord_key K ⟨i, h4⟩).symm
    · obtain ⟨m, rfl⟩ : ∃ m, i = m + 4 := ⟨i - 4, by omega⟩
      have hprev : rkWord k (m + 3) = expandWord K (m + 3) := ih _ (by omega) (by omega)
      have hback : rkWord k m = expandWord K m := ih _ (by omega) (by omega)
      calc rkWord k (m + 4) = nextWord (m + 4) (rkWord k (m + 3)) (rkWord k m) := h _ (by omega) hi
        _ = expandWord K (m + 4) := by rw [hprev, hback, expandWord_next]

/-- A schedule whose 44 words follow the recurrence is the expansion of the key in its first four. -/
theorem eq_expandKey {k : Schedule} {K : Block} (hkey : ∀ c : Fin 4, rkWord k c.val = blockWord K c)
    (h : Safety.expandedBelow k 44) : k = expandKey K :=
  schedule_ext_word fun i hi => by rw [rkWord_eq_expandWord hkey h i hi, rkWord_expandKey K hi]

/-- Settles O11: `KVALID = 1` promises the recurrence for all 44 words, and round key 0 is words 0 to 3. -/
theorem validScheduleIsTheKeysExpansion : Obligations.ValidScheduleIsTheKeysExpansion := by
  intro s ⟨_, hcomplete, _⟩ hv
  refine eq_expandKey (fun c => ?_) (hcomplete hv)
  rw [blockWord_roundKey, Nat.mul_zero, Nat.zero_add]

/-! ### The status registers -/

/-- Without reset only a legal state steps. -/
theorem wf_of_step {s t : State} (hr : s.port.rst = false) (h : step s = .next t) : s.wf := by
  by_contra hw
  rw [step_of_not_wf hr hw] at h
  cases h

theorem rejectionCode_inj {j k : Rejection} : rejectionCode j = rejectionCode k ↔ j = k := by
  cases j <;> cases k <;> decide

theorem rejectionCode_ne_zero (k : Rejection) : rejectionCode k ≠ 0 := by cases k <;> decide

/-- `err` tells the contents of `ERR` apart (60_exceptions.md R180). -/
theorem errCode_inj {e f : ErrCode} : errCode e = errCode f ↔ e = f := by
  cases e with
  | accepted =>
    cases f with
    | accepted => simp
    | rejected k => simpa [errCode] using (rejectionCode_ne_zero k).symm
  | rejected j =>
    cases f with
    | accepted => simpa [errCode] using rejectionCode_ne_zero j
    | rejected k => simp [errCode, rejectionCode_inj]

theorem errOut_of_ERR {s : State} {e : ErrCode} (h : s.ERR = e) : s.errOut = errCode e := congrArg errCode h

/-- The status after a rejected command: the micro-operation of the step writes neither register. -/
theorem seqOp_reject_status {s t : State} {k : Rejection} (h : seqOp (s.reject k) = .next t) :
    t.errOut = rejectionCode k ∧ t.EFLAG = true := by
  obtain ⟨herr, heflag, -⟩ := seqOp_keeps h
  exact ⟨errOut_of_ERR herr, heflag⟩

/-- Settles O18: the code is that of the branch R150's chain (`step_chain`) takes; all but the two loads reject. -/
theorem errAndEflagRecordTheCommand : Obligations.ErrAndEflagRecordTheCommand := by
  intro s t h
  refine ⟨fun hr => ?_, fun hr hp => ?_, fun hr hp => ?_⟩
  · rw [step_of_rst hr] at h
    cases h
    exact ⟨rfl, rfl⟩
  · rw [step_chain hr (wf_of_step hr h), if_pos hp] at h
    obtain ⟨herr, heflag, -⟩ := seqOp_keeps h
    exact ⟨herr, heflag⟩
  · rw [step_chain hr (wf_of_step hr h), if_neg (by simp [hp])] at h
    have hrejected {k : Rejection} (hk : seqOp (s.sampled.reject k) = .next t) :
        t.errOut = rejectionCode k ∧ t.EFLAG = (s.EFLAG || rejectionCode k != 0) := by
      obtain ⟨herr, heflag⟩ := seqOp_reject_status hk
      exact ⟨herr, by simpa [heflag] using Or.inr (rejectionCode_ne_zero k)⟩
    dsimp only
    split_ifs at h ⊢
    · exact hrejected h
    · exact hrejected h
    · exact hrejected h
    · exact hrejected h
    · cases h
      exact ⟨rfl, by simp⟩
    · cases h
      exact ⟨rfl, by simp⟩

/-! ### Who writes `S` and `RK` -/

/-- Only the micro-operations of the three encryption phases write `S`. -/
theorem seqOp_phase_of_S_ne {s t : State} (h : seqOp s = .next t) (hne : t.S ≠ s.S) :
    s.PHASE = .initial ∨ s.PHASE = .round ∨ s.PHASE = .final := by
  rcases seqOp_cases h with ⟨-, rfl⟩ | ⟨-, -, rfl⟩ | ⟨hp, -⟩ | ⟨hp, -⟩ | ⟨hp, -⟩ | ⟨-, rfl⟩
  · exact absurd rfl hne
  · exact absurd rfl hne
  · exact Or.inl hp
  · exact Or.inr (Or.inl hp)
  · exact Or.inr (Or.inr hp)
  · exact absurd rfl hne

/-- Only the micro-operation of an expansion writes `RK`, and of it only the word `KI` names. -/
theorem seqOp_kexp_of_rkByte_ne {s t : State} (h : seqOp s = .next t) {a : Nat} (hne : rkByte t.RK a ≠ rkByte s.RK a) :
    s.PHASE = .kexp ∧ a / 4 = s.KI.toNat := by
  rcases seqOp_cases h with ⟨-, rfl⟩ | ⟨hp, hready, rfl⟩ | ⟨-, -, rfl⟩ | ⟨-, -, -, rfl⟩ | ⟨-, -, rfl⟩ | ⟨-, rfl⟩
  case inr.inl =>
    obtain ⟨-, -, h43⟩ := s.kxStepReady_iff.1 hready
    refine ⟨hp, by_contra fun ha => hne ?_⟩
    rw [State.kxStep_RK, rkByte_writeWord _ (by omega), if_neg ha]
  all_goals exact absurd rfl hne

/-- Settles O19: the micro-operation is the one writer beside the two loads, and a rejection writes neither register. -/
theorem dataRegistersHaveOneWriter : Obligations.DataRegistersHaveOneWriter := by
  intro s t hr h
  rcases step_cases h with ⟨hrst, -⟩ | ⟨-, -, ⟨hs, -⟩ | ⟨k, hs, -⟩ | ⟨rfl, hc, h30, hb⟩ | ⟨rfl, hc, h50, hb, hv⟩⟩
  · simp [hr] at hrst
  · exact ⟨fun hne => Or.inr (seqOp_phase_of_S_ne (s := s.sampled) hs hne),
      fun _ _ hne => Or.inr (seqOp_kexp_of_rkByte_ne (s := s.sampled) hs hne)⟩
  · exact ⟨fun hne => Or.inr (seqOp_phase_of_S_ne (s := s.sampled.reject k) hs hne),
      fun _ _ hne => Or.inr (seqOp_kexp_of_rkByte_ne (s := s.sampled.reject k) hs hne)⟩
  · refine ⟨fun hne => absurd rfl hne, fun a _ hne => Or.inl ⟨hc, h30, hb, ?_⟩⟩
    rw [State.kxLoad_RK, rkByte_load] at hne ⊢
    by_cases ha : a < 16
    · simp [ha]
    · simp [ha] at hne
  · exact ⟨fun _ => Or.inl ⟨hc, h50, hb, hv, rfl⟩, fun a _ hne => absurd rfl hne⟩

/-! ### Reset -/

/-- Settles O10: after reset `KVALID` is clear and no expansion is in progress, so the schedule is promised nothing. -/
theorem resetMeetsTheInvariant : Obligations.ResetMeetsTheInvariant :=
  ⟨State.reset_wf, by simp [Safety.scheduleOk, State.reset]⟩

/-- 93_implementation_defined.md I16: of the old state a reset keeps the model's own fields only. -/
theorem State.resetStep_congr {s u : State} (hi : s.inputs = u.inputs) (hw : s.wire = u.wire)
    (hn : s.resets = u.resets) : s.resetStep = u.resetStep := by
  simp only [State.resetStep, hi, hw, hn]

theorem exec_reset (s : State) : exec .reset s = .next s.resetStep := rfl

/-- Settles O13: `resetStep` writes every register (R40), and `State.resetStep_congr` says what it reads. -/
theorem resetCompletesEverywhere : Obligations.ResetCompletesEverywhere := by
  refine ⟨by decide, fun s => ⟨s.resetStep, exec_reset s, ⟨rfl, rfl, rfl, rfl, rfl, rfl, rfl, rfl, rfl, rfl, rfl⟩, rfl, rfl⟩,
    fun s u hi hw hn => ?_⟩
  rw [exec_reset, exec_reset, State.resetStep_congr hi hw hn]

/-! ### Outputs and taps -/

theorem State.done_eq_true (s : State) : s.done = true ↔ s.PHASE = .done := by simp [State.done]

/-- Settles O21: flags by cases of `PHASE`, error codes by `errCode_inj`; the taps are read off the registers. -/
theorem outputsAndTapsShowTheRegisters : Obligations.OutputsAndTapsShowTheRegisters := by
  intro s
  have hbusy : s.busy = true ↔ s.PHASE = .kexp ∨ s.PHASE = .initial ∨ s.PHASE = .round ∨ s.PHASE = .final := by
    rw [State.busy_eq_true]
    cases s.PHASE <;> decide
  have hidle : s.busy = false ∧ s.done = false ↔ s.PHASE = .idle := by
    unfold State.busy State.done
    cases s.PHASE <;> decide
  have herr (e : ErrCode) : s.errOut = errCode e ↔ s.ERR = e := errCode_inj
  exact ⟨hbusy, s.done_eq_true, hidle, rfl, rfl, herr .accepted, herr (.rejected .invalidLength),
    herr (.rejected .illegalCommand), herr (.rejected .busy), herr (.rejected .noKey), fun _ => ⟨rfl, rfl⟩,
    fun r i => rkRoundKey_getElem s.RK r.val i.val i.isLt, rfl, rfl, rfl, rfl, rfl, rfl⟩

/-! ### Micro-operations outside their phase -/

/-- Settles O29: each row is guarded by its phase and its counter's range. -/
theorem unselectedMicroOperationsStop : Obligations.UnselectedMicroOperationsStop := by
  intro s
  refine ⟨fun h => ?_, fun h => ?_, fun h => ?_, fun h => ?_, fun h => ?_, fun h => ?_⟩
  · exact unlessStuck_of_false (by simpa using h) s
  · exact unlessStuck_of_false (by simpa using h) s
  · have hready : s.kxStepReady = false := by rwa [← Bool.not_eq_true, s.kxStepReady_iff]
    exact ⟨unlessStuck_of_false hready _, unlessStuck_of_false hready _⟩
  · exact unlessStuck_of_false (by simpa using h) _
  · exact unlessStuck_of_false (by simpa [and_assoc] using h) _
  · exact unlessStuck_of_false (by simpa using h) _

end Sys2Proof.Machine
end

section
/-! PROOF. Datapath rows asked for an entry their memory does not have (20_memory.md R56, R60). -/

namespace Sys2Proof.Machine

/-- The round-constant ROM ends at entry 10. -/
theorem exec_rcon_missing {i : BitVec 4} (h : 10 < i.toNat) (s : State) : exec (.rcon i) s = .fault .noSuchEntry :=
  if_neg h.not_ge

/-- The recurrence starts at word 4 and ends at word 43. -/
theorem exec_nextWord_missing {i : BitVec 6} (h : i.toNat < 4 ∨ 43 < i.toNat) (prev back : Word) (s : State) :
    exec (.nextWord i prev back) s = .fault .noSuchEntry :=
  have hout : ¬ (4 ≤ i.toNat ∧ i.toNat ≤ 43) := by omega
  if_neg hout

/-- The round-key RAM ends at round key 10. -/
theorem exec_addRoundKey_missing {s : State} (h : 10 < s.RND.toNat) : exec .addRoundKey s = .fault .noSuchEntry :=
  if_neg h.not_ge

/-- Settles O54: row by row, the index is outside the range its guard asks for. -/
theorem missingEntriesStop : Obligations.MissingEntriesStop :=
  ⟨fun _ s h => exec_rcon_missing h s, fun _ prev back s h => exec_nextWord_missing h prev back s,
    fun _ h => exec_addRoundKey_missing h⟩

end Sys2Proof.Machine
end

section
/-! PROOF. The decoder and the encoder (30_encoding.md R70 to R76, R80): the fields of a command word, an equation per
operation code, and the two round trips. -/

namespace Sys2Proof

/-! ### The fields of a command word -/

@[simp] theorem opField_cmdWord (op : BitVec 3) (len : BitVec 5) : opField (cmdWord op len) = op :=
  BitVec.extractLsb'_append_eq_left

@[simp] theorem lenField_cmdWord (op : BitVec 3) (len : BitVec 5) : lenField (cmdWord op len) = len :=
  BitVec.extractLsb'_append_eq_right

/-- A command word is its two fields. -/
theorem cmdWord_of_opField {w : BitVec 8} {op : BitVec 3} (h : opField w = op) : cmdWord op (lenField w) = w := by
  subst h
  revert w
  decide

theorem opField_toNat (w : BitVec 8) : (opField w).toNat = w.toNat / 32 := by
  revert w
  decide

theorem opField_eq_of_toNat {w : BitVec 8} {op : BitVec 3} (h : w.toNat / 32 = op.toNat) : opField w = op :=
  BitVec.eq_of_toNat_eq ((opField_toNat w).trans h)

theorem opField_cases (w : BitVec 8) :
    opField w = 0 ∨ opField w = 1 ∨ opField w = 2 ∨ opField w = 3 ∨ 4 ≤ (opField w).toNat := by
  generalize opField w = op
  revert op
  decide

/-- The operation codes 4 to 7 are the ones with the top bit set; `opLow` is the rest. -/
theorem four_le_opField_iff (w : BitVec 8) : 4 ≤ (opField w).toNat ↔ opField w = 1#1 ++ w.extractLsb' 5 2 := by
  revert w
  decide

theorem opLow_cmdWord (opLow : BitVec 2) (len : BitVec 5) :
    (cmdWord (1#1 ++ opLow) len).extractLsb' 5 2 = opLow := by
  unfold cmdWord
  rw [BitVec.extractLsb'_append_eq_of_le le_rfl]
  exact BitVec.extractLsb'_append_eq_right

/-! ### One equation per operation code (30_encoding.md R71) -/

theorem decodeCmd_nop {w : BitVec 8} (h : opField w = 0) (din : Block) : decodeCmd w din = .nop (lenField w) := by
  simp [decodeCmd, h]

theorem decodeCmd_expandKey {w : BitVec 8} (h : opField w = 1) (din : Block) :
    decodeCmd w din = .expandKey (lenField w) din := by
  simp [decodeCmd, h]

theorem decodeCmd_encryptBlock {w : BitVec 8} (h : opField w = 2) (din : Block) :
    decodeCmd w din = .encryptBlock (lenField w) din := by
  simp [decodeCmd, h]

theorem decodeCmd_reservedOp3 {w : BitVec 8} (h : opField w = 3) (din : Block) :
    decodeCmd w din = .reservedOp3 (lenField w) := by
  simp [decodeCmd, h]

theorem decodeCmd_reservedOp47 {w : BitVec 8} (h : 4 ≤ (opField w).toNat) (din : Block) :
    decodeCmd w din = .reservedOp47 (w.extractLsb' 5 2) (lenField w) := by
  have hne : ∀ op : BitVec 3, 4 ≤ op.toNat → op ≠ 0 ∧ op ≠ 1 ∧ op ≠ 2 ∧ op ≠ 3 := by decide
  obtain ⟨h0, h1, h2, h3⟩ := hne _ h
  rw [decodeCmd, if_neg h0, if_neg h1, if_neg h2, if_neg h3]

/-! ### Decode after encode -/

theorem decodeCmd_cmdWord_reservedOp47 (opLow : BitVec 2) (len : BitVec 5) (din : Block) :
    decodeCmd (cmdWord (1#1 ++ opLow) len) din = .reservedOp47 opLow len := by
  have hop : 4 ≤ (opField (cmdWord (1#1 ++ opLow) len)).toNat := by
    rw [four_le_opField_iff, opField_cmdWord, opLow_cmdWord]
  rw [decodeCmd_reservedOp47 hop, opLow_cmdWord, lenField_cmdWord]

theorem decode_encode {i : Instr} {b : Bits} (h : encode i = some b) : decode b = .ok i := by
  cases i
  case nop len => cases h; simp [decode, decodeCmd_nop]
  case expandKey len din => cases h; simp [decode, decodeCmd_expandKey]
  case encryptBlock len din => cases h; simp [decode, decodeCmd_encryptBlock]
  case reservedOp3 len => cases h; simp [decode, decodeCmd_reservedOp3]
  case reservedOp47 opLow len => cases h; simp [decode, decodeCmd_cmdWord_reservedOp47]
  -- PIN, SEQ and RCTL: one word per instruction; FUNC: no word.
  all_goals cases h
  all_goals rfl

/-- Settles O3, by cases of the instruction (`decode_encode`). -/
theorem decodingUndoesEncoding : Obligations.DecodingUndoesEncoding := fun _ _ => decode_encode

/-! ### Encode after decode -/

/-- The `DIN` bytes come back for the two commands that have them as operand (30_encoding.md R73). -/
theorem encode_decodeCmd (w : BitVec 8) (din : Block) :
    ∃ d : Block, encode (decodeCmd w din) = some (.cmd w d) ∧ (opField w = 1 ∨ opField w = 2 → d = din) := by
  have hword {op : BitVec 3} (h : opField w = op) (d : Block) :
      some (Bits.cmd (cmdWord op (lenField w)) d) = some (.cmd w d) := by rw [cmdWord_of_opField h]
  rcases opField_cases w with h | h | h | h | h
  · rw [decodeCmd_nop h]
    exact ⟨noOperand, hword h _, by simp [h]⟩
  · rw [decodeCmd_expandKey h]
    exact ⟨din, hword h _, fun _ => rfl⟩
  · rw [decodeCmd_encryptBlock h]
    exact ⟨din, hword h _, fun _ => rfl⟩
  · rw [decodeCmd_reservedOp3 h]
    exact ⟨noOperand, hword h _, by simp [h]⟩
  · rw [decodeCmd_reservedOp47 h]
    refine ⟨noOperand, hword ((four_le_opField_iff w).1 h) _, ?_⟩
    rintro (e | e) <;> simp [e] at h

theorem encode_of_decodePin {x : BitVec 1} {i : Instr} (h : decodePin x = .ok i) : encode i = some (.pin x) := by
  unfold decodePin at h
  split_ifs at h with hx
  cases h
  rw [hx]
  rfl

theorem encode_of_decodeSeq {x : BitVec 3} {i : Instr} (h : decodeSeq x = .ok i) : encode i = some (.seq x) := by
  unfold decodeSeq at h
  split_ifs at h with hx hx hx hx hx hx
  all_goals
    cases h
    rw [hx]
    rfl

/-- The words with exactly one bit set are the words of the four stage rows (30_encoding.md R75). -/
theorem encode_of_rctlStages {x : BitVec 4} {i : Instr} (h : rctlStages x = [i]) : encode i = some (.rctl x) := by
  have hall : ∀ x : BitVec 4, ∀ i ∈ rctlStages x, rctlStages x = [i] → encode i = some (.rctl x) := by decide
  exact hall x i (by simp [h]) h

theorem encode_of_decodeRctl {x : BitVec 4} {i : Instr} (h : decodeRctl x = .ok i) : encode i = some (.rctl x) := by
  unfold decodeRctl at h
  split at h
  next j hj =>
    cases h
    exact encode_of_rctlStages hj
  next => cases h

/-- Settles O4, format by format. -/
theorem encodingUndoesDecoding : Obligations.EncodingUndoesDecoding :=
  ⟨encode_decodeCmd, fun _ _ => encode_of_decodePin, fun _ _ => encode_of_decodeSeq, fun _ _ => encode_of_decodeRctl⟩

/-! ### Sample words and the classification -/

/-- Settles O1: each word is closed but for `din`, which no comparison of the decoder reads. -/
theorem sampleWordsDecode : Obligations.SampleWordsDecode := fun _ =>
  ⟨rfl, rfl, rfl, rfl, rfl, rfl, rfl, rfl, rfl, rfl, rfl, rfl, rfl, rfl, rfl⟩

/-- Settles O2: the range of a word gives its `OP`, and `Machine.cmd_of_fields` says which word has `LEN = 16`. -/
theorem commandWordsAreClassified : Obligations.CommandWordsAreClassified := by
  intro w din
  obtain ⟨h30, h50⟩ := Machine.cmd_of_fields w
  refine ⟨fun h => ?_, fun h => ?_, fun hlo hhi hne => ?_, fun h => ?_, fun hlo hhi hne => ?_, fun h => ?_⟩
  · exact decodeCmd_nop (opField_eq_of_toNat (by simp; omega)) din
  · obtain ⟨hop, hlen⟩ := h30.2 (BitVec.eq_of_toNat_eq h)
    rw [decodeCmd_expandKey hop, hlen]
  · have hop : opField w = 1 := opField_eq_of_toNat (by simp; omega)
    exact ⟨lenField w, fun hlen => hne (by simp [h30.1 ⟨hop, hlen⟩]), decodeCmd_expandKey hop din⟩
  · obtain ⟨hop, hlen⟩ := h50.2 (BitVec.eq_of_toNat_eq h)
    rw [decodeCmd_encryptBlock hop, hlen]
  · have hop : opField w = 2 := opField_eq_of_toNat (by simp; omega)
    exact ⟨lenField w, fun hlen => hne (by simp [h50.1 ⟨hop, hlen⟩]), decodeCmd_encryptBlock hop din⟩
  · by_cases h3 : w.toNat ≤ 0x7F
    · exact Or.inl ⟨_, decodeCmd_reservedOp3 (opField_eq_of_toNat (by simp; omega)) din⟩
    · have hop : 4 ≤ (opField w).toNat := by rw [opField_toNat]; omega
      exact Or.inr ⟨_, _, decodeCmd_reservedOp47 hop din⟩

end Sys2Proof
end

section
/-! PROOF. What bits select in a step: no command (30_encoding.md R77), and the stages of a stage-enable word
(30_encoding.md R75, 43_round_transforms.md R137). -/

namespace Sys2Proof.Machine

/-! ### A step without a command -/

theorem presents_eq_false {p : PortSample} : Safety.presents p = false ↔ p.cmdValid = false ∨ opField p.cmd = 0 := by
  simp [Safety.presents, or_iff_not_imp_left]

/-- Of a sample that presents no command the step reads nothing: it is the micro-operation, where the state is legal. -/
theorem step_offer_of_not_presents {p : PortSample} (hr : p.rst = false) (hp : Safety.presents p = false) (s : State)
    (rest : List PortSample) :
    step (s.offer (p :: rest)) = if s.wf then seqOp (s.offer rest) else .fault .stuck := by
  split_ifs with hw
  · rw [step_chain (s := s.offer (p :: rest)) hr ((s.offer_wf _).2 hw)]
    exact if_pos hp
  · exact step_of_not_wf (s := s.offer (p :: rest)) hr (mt (s.offer_wf _).1 hw)

/-- Settles O14: both samples present no command, and `SeqOp` leaves `ERR`. -/
theorem nopStepEqualsStepWithoutCommand : Obligations.NopStepEqualsStepWithoutCommand := by
  intro s p q rest hrp hrq hcp hcq
  have hstep := step_offer_of_not_presents hrp (presents_eq_false.2 (Or.inl hcp)) s rest
  refine ⟨hstep.trans (step_offer_of_not_presents hrq (presents_eq_false.2 hcq) s rest).symm, fun t h => ?_, fun hw => ?_⟩
  · rw [hstep] at h
    split_ifs at h
    obtain ⟨herr, -⟩ := seqOp_keeps h
    exact herr
  · obtain ⟨i, hdecode, hexec⟩ := decodeSeq_phaseCode s s.PHASE rfl (s.offer rest) rfl
    exact ⟨i, hdecode, by rw [hstep, if_pos hw, hexec]⟩

/-! ### The stages of a stage-enable word -/

/-- Execute an instruction after what came before it, which may have stopped. -/
def thenExec (o : Host.Outcome State Fault Refusal) (i : Instr) : Host.Outcome State Fault Refusal :=
  match o with
  | .next u => exec i u
  | .fault r => .fault r
  | .refused r => .refused r

/-- One position of the pipeline: an enabled stage writes its output to `S`, a disabled one passes `S` through. -/
theorem foldl_thenExec_stage {s : State} {i : Instr} {f : Block → Block}
    (h : ∀ b, exec i (s.writeS b) = .next (s.writeS (f b))) (enabled : Bool) (b : Block) :
    (if enabled then [i] else []).foldl thenExec (.next (s.writeS b)) = .next (s.writeS (if enabled then f b else b)) := by
  cases enabled with
  | false => rfl
  | true => exact h b

theorem exec_addRoundKey_writeS {s : State} (h : s.RND.toNat ≤ 10) (b : Block) :
    exec .addRoundKey (s.writeS b) = .next (s.writeS (addRoundKey b (rkRoundKey s.RK s.RND.toNat))) := if_pos h

theorem foldl_thenExec_rctlStages (ctl : BitVec 4) {s : State} (h : s.RND.toNat ≤ 10) (b : Block) :
    (rctlStages ctl).foldl thenExec (.next (s.writeS b)) =
      .next (s.writeS (roundFn ctl b (rkRoundKey s.RK s.RND.toNat))) := by
  unfold rctlStages
  rw [List.foldl_append, List.foldl_append, List.foldl_append, foldl_thenExec_stage (f := subBytes) fun _ => rfl,
    foldl_thenExec_stage (f := shiftRows) fun _ => rfl, foldl_thenExec_stage (f := mixColumns) fun _ => rfl,
    foldl_thenExec_stage (exec_addRoundKey_writeS h)]
  rfl

/-- Settles O41: the statement folds `thenExec`, and the fold starts from `S` as it stands. -/
theorem stageWordRunsItsStagesInOrder : Obligations.StageWordRunsItsStagesInOrder := fun ctl s h =>
  foldl_thenExec_rctlStages ctl h s.S

end Sys2Proof.Machine
end

section
/-! PROOF. The GF(2^8) multiplier (40_gf_multiplier.md R90 to R93): the loop is the sum of the selected multiples, and the
field laws follow from additivity and from `xtime` as the product with the single bits. -/

namespace Sys2Proof.Machine

/-! ### The loop is a sum -/

/-- Add the multiple `a · x^i` that bit `i` of `b` selects. -/
def addMultiple (a b p : Byte) (i : Nat) : Byte := p ^^^ (if b.getLsbD i then xtime^[i] a else 0)

/-- Bit `i + 1` of `b` selects what bit `i` of the shifted `b` selects from `xtime a`. -/
theorem addMultiple_succ (a b p : Byte) (i : Nat) :
    addMultiple a b p (i + 1) = addMultiple (xtime a) (b >>> 1) p i := by
  simp [addMultiple, Nat.add_comm 1 i]

theorem gmulLoop_eq_foldl (n : Nat) (p a b : Byte) : gmulLoop n p a b = (List.range n).foldl (addMultiple a b) p := by
  induction n generalizing p a b with
  | zero => rfl
  | succ n ih =>
    have hfirst : (if b.getLsbD 0 then p ^^^ a else p) = addMultiple a b p 0 := by
      unfold addMultiple
      cases b.getLsbD 0
      · exact BitVec.xor_zero.symm
      · rfl
    rw [List.range_succ_eq_map, List.foldl_cons, List.foldl_map, gmulLoop, hfirst, ih]
    simp only [Nat.succ_eq_add_one, addMultiple_succ]

/-- `xtime` in the words of R90: the reduction is XORed only when bit 7 was set. -/
theorem xtime_eq_ite (a : Byte) : xtime a = if a.getLsbD 7 = true then (a <<< 1) ^^^ 0x1B#8 else a <<< 1 := by
  unfold xtime
  cases a.getLsbD 7
  · exact BitVec.xor_zero
  · rfl

theorem exec_gfmul (a b : Byte) (s : State) : exec (.gfmul a b) s = .next (s.drive (.byte (gmul a b))) := rfl

theorem exec_xtime (a : Byte) (s : State) : exec (.xtime a) s = .next (s.drive (.byte (xtime a))) := rfl

/-- Settles O43: `gmulLoop_eq_foldl` from the empty product, with `xtime` for the multiplication by x. -/
theorem gfmulIsTheFieldProduct : Obligations.GfmulIsTheFieldProduct := by
  intro a b s timesX
  have hx : timesX = xtime := funext fun x => (xtime_eq_ite x).symm
  rw [exec_gfmul, gmul, gmulLoop_eq_foldl, hx]
  rfl

/-! ### Additivity, and the product with a single bit -/

theorem gmul_xor_left (a c b : Byte) : gmul (a ^^^ c) b = gmul a b ^^^ gmul c b := gmulLoop_xor_shifting 8 0 0 a c b

theorem gmul_xor_right (a b c : Byte) : gmul a (b ^^^ c) = gmul a b ^^^ gmul a c := gmulLoop_xor_selecting 8 0 0 a b c

theorem gmulLoop_selecting_zero (n : Nat) (p a : Byte) : gmulLoop n p a 0 = p := by
  induction n generalizing a with
  | zero => rfl
  | succ n ih => exact ih (xtime a)

theorem gmul_zero (a : Byte) : gmul a 0 = 0 := gmulLoop_selecting_zero 8 0 a

theorem gmulLoop_twoPow {n i : Nat} (hn : i < n) (h8 : i < 8) (a : Byte) :
    gmulLoop n 0 a (BitVec.twoPow 8 i) = xtime^[i] a := by
  induction i generalizing n a with
  | zero =>
    obtain ⟨n, rfl⟩ := Nat.exists_eq_succ_of_ne_zero hn.ne'
    exact (gmulLoop_selecting_zero n (0 ^^^ a) (xtime a)).trans BitVec.zero_xor
  | succ i ih =>
    obtain ⟨n, rfl⟩ := Nat.exists_eq_succ_of_ne_zero (Nat.ne_zero_of_lt hn)
    have hbit : (BitVec.twoPow 8 (i + 1)).getLsbD 0 = false := by simp
    have hshift : BitVec.twoPow 8 (i + 1) >>> 1 = BitVec.twoPow 8 i := by
      ext j hj
      simp [Nat.add_comm 1 j, h8, eq_comm]
    rw [gmulLoop, hbit, hshift]
    exact ih (by omega) (by omega) (xtime a)

/-- The product with x^i is `i` times the multiplication by x (40_gf_multiplier.md R91). -/
theorem gmul_twoPow (a : Byte) (i : Fin 8) : gmul a (BitVec.twoPow 8 i.val) = xtime^[i.val] a :=
  gmulLoop_twoPow i.isLt i.isLt a

theorem gmul_one (a : Byte) : gmul a 1 = a := gmul_twoPow a 0

theorem gmul_two (a : Byte) : gmul a 2 = xtime a := gmul_twoPow a 1

theorem one_gmul (a : Byte) : gmul 1 a = a :=
  additive_ext (f := gmul 1) (g := id) (gmul_xor_right 1) (fun _ _ => rfl) (by decide) a

/-- The single bits are the powers of x below 8. -/
theorem iterate_xtime_one (i : Fin 8) : xtime^[i.val] 1 = BitVec.twoPow 8 i.val := by
  rw [← gmul_twoPow, one_gmul]

/-- Settles O45: R91's row as written, `gmul_two`, and additivity for the product with 3 = 2 ^^^ 1. -/
theorem xtimeShiftsAndReduces : Obligations.XtimeShiftsAndReduces := by
  refine ⟨fun a s => ⟨rfl, ?_⟩, fun a => ⟨?_, gmul_one a⟩, by decide⟩
  · rw [exec_xtime, exec_gfmul, gmul_two]
  · rw [show (3 : Byte) = 2 ^^^ 1 from rfl, gmul_xor_right, gmul_one]

/-! ### The ring laws -/

/-- Multiplication by x passes through the loop. -/
theorem gmulLoop_xtime (n : Nat) (p a b : Byte) : gmulLoop n (xtime p) (xtime a) b = xtime (gmulLoop n p a b) := by
  induction n generalizing p a b with
  | zero => rfl
  | succ n ih =>
    rw [gmulLoop, gmulLoop, ← ih, ← xtime_xor]
    congr 1
    split_ifs <;> rfl

theorem gmul_xtime_left (a b : Byte) : gmul (xtime a) b = xtime (gmul a b) := gmulLoop_xtime 8 0 a b

theorem gmul_iterate_xtime_left (n : Nat) (a b : Byte) : gmul (xtime^[n] a) b = xtime^[n] (gmul a b) :=
  Function.Semiconj.iterate_right (f := (gmul · b)) (gmul_xtime_left · b) n a

/-- Both sides are additive in `b`, and at the bit `i` of `b` both are `xtime^[i] a`. -/
theorem gmul_comm (a b : Byte) : gmul a b = gmul b a := by
  refine additive_ext (f := gmul a) (g := (gmul · a)) (gmul_xor_right a) (gmul_xor_left · · a) (fun i => ?_) b
  calc gmul a (BitVec.twoPow 8 i.val)
      _ = xtime^[i.val] (gmul 1 a) := by rw [gmul_twoPow, one_gmul]
      _ = gmul (BitVec.twoPow 8 i.val) a := by rw [← gmul_iterate_xtime_left, iterate_xtime_one]

/-- Both sides are additive in `c`, and at the bit `i` of `c` both are `xtime^[i]` of the product of `a` and `b`. -/
theorem gmul_assoc (a b c : Byte) : gmul (gmul a b) c = gmul a (gmul b c) := by
  refine additive_ext (f := gmul (gmul a b)) (g := fun c => gmul a (gmul b c)) (gmul_xor_right _)
    (fun c d => by rw [gmul_xor_right, gmul_xor_right]) (fun i => ?_) c
  calc gmul (gmul a b) (BitVec.twoPow 8 i.val)
      _ = xtime^[i.val] (gmul b a) := by rw [gmul_twoPow, gmul_comm a b]
      _ = gmul a (gmul b (BitVec.twoPow 8 i.val)) := by rw [← gmul_iterate_xtime_left, gmul_twoPow, gmul_comm]

/-! ### Squaring -/

/-- The square in the field: it is additive and multiplicative, so it is settled by its values at the single bits. -/
def gfSquare (a : Byte) : Byte := gmul a a

theorem gfSquare_xor (a b : Byte) : gfSquare (a ^^^ b) = gfSquare a ^^^ gfSquare b := by
  unfold gfSquare
  have hcross : gmul b a ^^^ gmul a b = 0#8 := by rw [gmul_comm, BitVec.xor_self]
  calc gmul (a ^^^ b) (a ^^^ b)
      _ = gmul a a ^^^ (gmul b a ^^^ gmul a b) ^^^ gmul b b := by
        rw [gmul_xor_right, gmul_xor_left, gmul_xor_left]; ac_rfl
      _ = gmul a a ^^^ gmul b b := by rw [hcross, BitVec.xor_zero]

theorem gfSquare_gmul (a b : Byte) : gfSquare (gmul a b) = gmul (gfSquare a) (gfSquare b) := by
  unfold gfSquare
  rw [gmul_assoc, gmul_assoc, ← gmul_assoc b a b, gmul_comm b a, gmul_assoc a b b]

/-- `a ^ 256 = a`: eight squarings are additive and leave the single bits as they are. -/
theorem iterate_gfSquare_eight (a : Byte) : gfSquare^[8] a = a :=
  additive_ext (g := id) (Function.Semiconj₂.iterate (f := gfSquare) (op := (· ^^^ ·)) gfSquare_xor 8) (fun _ _ => rfl)
    (by decide +kernel) a

/-- The reduction polynomial does not split into coprime factors: the ring has no idempotents but 0 and 1. -/
theorem eq_zero_or_one_of_gfSquare_eq_self : ∀ a : Byte, gfSquare a = a → a = 0 ∨ a = 1 := by decide

/-! ### Inverses (40_gf_multiplier.md R92) -/

/-- One turn of raising `x` to the power 254. -/
def squareOfProduct (x p : Byte) : Byte := gfSquare (gmul p x)

/-- `x ^ 254`: seven times multiply by `x` and square, with exponents 2, 6, 14, 30, 62, 126, 254. -/
def gfInverse (x : Byte) : Byte := (squareOfProduct x)^[7] 1

/-- The exponent after `n` turns is two below that of `n + 1` squarings. -/
theorem iterate_squareOfProduct_gmul (x : Byte) (n : Nat) :
    gmul (gmul ((squareOfProduct x)^[n] 1) x) x = gfSquare^[n + 1] x := by
  induction n with
  | zero => exact congrArg (gmul · x) (one_gmul x)
  | succ n ih =>
    rw [Function.iterate_succ_apply', Function.iterate_succ_apply', ← ih, gfSquare_gmul, gmul_assoc]
    rfl

/-- `x ^ 255` is idempotent because `x ^ 256 = x`, and is not 0 for the same reason; so it is 1. -/
theorem gfInverse_gmul {x : Byte} (hx : x ≠ 0) : gmul (gfInverse x) x = 1 := by
  have hself : gmul (gmul (gfInverse x) x) x = x :=
    (iterate_squareOfProduct_gmul x 7).trans (iterate_gfSquare_eight x)
  have hidem : gfSquare (gmul (gfInverse x) x) = gmul (gfInverse x) x :=
    calc gmul (gmul (gfInverse x) x) (gmul (gfInverse x) x)
      _ = gmul (gmul (gmul (gfInverse x) x) x) (gfInverse x) := by rw [gmul_comm (gfInverse x), ← gmul_assoc]
      _ = gmul (gfInverse x) x := by rw [hself, gmul_comm]
  rcases eq_zero_or_one_of_gfSquare_eq_self _ hidem with h | h
  · rw [h, gmul_comm, gmul_zero] at hself
    exact absurd hself.symm hx
  · exact h

/-- A factor other than 0 can be divided out. -/
theorem eq_gmul_gfInverse {x : Byte} (hx : x ≠ 0) {y z : Byte} (h : gmul x y = z) : y = gmul (gfInverse x) z := by
  rw [← h, ← gmul_assoc, gfInverse_gmul hx, one_gmul]

theorem existsUnique_gmul_eq_one {x : Byte} (hx : x ≠ 0) : ∃! y : Byte, gmul x y = 1 :=
  ⟨gfInverse x, (gmul_comm _ _).trans (gfInverse_gmul hx), fun _ h => (eq_gmul_gfInverse hx h).trans (gmul_one _)⟩

theorem eq_zero_or_eq_zero_of_gmul_eq_zero {a b : Byte} (h : gmul a b = 0) : a = 0 ∨ b = 0 :=
  or_iff_not_imp_left.2 fun ha => (eq_gmul_gfInverse ha h).trans (gmul_zero _)

/-! ### The powers of 2 (40_gf_multiplier.md R93) -/

theorem powers_of_two : (List.range 16).map (fun n => xtime^[n] 1) =
    [0x01, 0x02, 0x04, 0x08, 0x10, 0x20, 0x40, 0x80, 0x1B, 0x36, 0x6C, 0xD8, 0xAB, 0x4D, 0x9A, 0x2F] := by decide

/-- The round constants' top bytes are the first ten powers (42_key_schedule.md R112). -/
theorem byteOf_rconRead (i : Fin 10) : byteOf 0 (rconRead (i.val + 1)) = xtime^[i.val] 1 := by
  revert i
  decide

/-- Settles O44, law by law. -/
theorem fieldLaws : Obligations.FieldLaws :=
  ⟨gmul_zero, gmul_one, gmul_comm, fun a b c => gmul_xor_left a c b, gmul_xor_right, gmul_assoc,
    fun _ => existsUnique_gmul_eq_one, fun _ _ => eq_zero_or_eq_zero_of_gmul_eq_zero, powers_of_two, byteOf_rconRead⟩

end Sys2Proof.Machine
end

section
/-! PROOF. The S-box ROM (41_sbox_rom.md R100 to R104): the table is the affine image of the field inverse, from which
it is a bijection; the grid and the linear list of its rows hold the same entry for each byte. -/

namespace Sys2Proof.Machine

/-! ### The algebraic construction (41_sbox_rom.md R103) -/

/-- The affine map of R103, applied to the inverse `v`. -/
def affineImage (v : Byte) : Byte :=
  v ^^^ v.rotateLeft 1 ^^^ v.rotateLeft 2 ^^^ v.rotateLeft 3 ^^^ v.rotateLeft 4 ^^^ 0x63#8

/-- The affine map that undoes `affineImage`. -/
def affinePreimage (y : Byte) : Byte := y.rotateLeft 1 ^^^ y.rotateLeft 3 ^^^ y.rotateLeft 6 ^^^ 0x05#8

theorem affinePreimage_affineImage : ∀ v : Byte, affinePreimage (affineImage v) = v := by decide

theorem affineImage_affinePreimage : ∀ y : Byte, affineImage (affinePreimage y) = y := by decide

/-- The ROM's entries against the multiplier: one product for each byte other than 0. -/
theorem gmul_affinePreimage_sboxRead : ∀ x : Byte, x ≠ 0 → gmul x (affinePreimage (sboxRead x)) = 1 := by
  decide +kernel

theorem gfInverse_zero : gfInverse 0 = 0 := by decide

/-- The inverse that R93 calls unique is `gfInverse`. -/
theorem eq_gfInverse {x v : Byte} (hx : x ≠ 0) (h : gmul x v = 1) : v = gfInverse x :=
  (eq_gmul_gfInverse hx h).trans (gmul_one _)

theorem sboxRead_eq_affineImage (x : Byte) : sboxRead x = affineImage (gfInverse x) := by
  by_cases hx : x = 0
  · rw [hx, gfInverse_zero]
    decide
  · rw [← eq_gfInverse hx (gmul_affinePreimage_sboxRead x hx), affineImage_affinePreimage]

/-- Settles O48: the `v` of R103 is `gfInverse x` in both of its cases. -/
theorem sboxIsTheAffineImageOfTheInverse : Obligations.SboxIsTheAffineImageOfTheInverse := by
  intro x v h
  have hv : v = gfInverse x := by
    rcases h with ⟨rfl, rfl⟩ | ⟨hx, hmul⟩
    · exact gfInverse_zero.symm
    · exact eq_gfInverse hx hmul
  rw [hv]
  exact sboxRead_eq_affineImage x

/-! ### The bijection (41_sbox_rom.md R104) -/

theorem affineImage_bijective : Function.Bijective affineImage :=
  Function.bijective_iff_has_inverse.2 ⟨affinePreimage, affinePreimage_affineImage, affineImage_affinePreimage⟩

/-- `x` is an inverse of its inverse, and inverses are unique. -/
theorem gfInverse_involutive : Function.Involutive gfInverse := by
  intro x
  by_cases hx : x = 0
  · rw [hx, gfInverse_zero, gfInverse_zero]
  · have hmul : gmul (gfInverse x) x = 1 := gfInverse_gmul hx
    have hne : gfInverse x ≠ 0 := by
      intro h0
      rw [h0, gmul_comm, gmul_zero] at hmul
      exact absurd hmul (by decide)
    exact (eq_gfInverse hne hmul).symm

theorem sboxRead_bijective : Function.Bijective sboxRead := by
  rw [funext sboxRead_eq_affineImage]
  exact affineImage_bijective.comp gfInverse_involutive.bijective

/-- Neither a fixed nor an opposite fixed point, entry by entry. -/
theorem sboxRead_ne : ∀ x : Byte, sboxRead x ≠ x ∧ sboxRead x ≠ x ^^^ 0xFF#8 := by decide

/-- Settles O47: the construction gives the bijection, the table the rest. -/
theorem sboxIsABijectionWithoutFixedPoints : Obligations.SboxIsABijectionWithoutFixedPoints :=
  ⟨sboxRead_bijective, sboxRead_ne, by decide⟩

/-! ### The grid (41_sbox_rom.md R100, 20_memory.md R57) -/

/-- The grid of R101. -/
abbrev sboxGrid : List (List Nat) := sboxRowsLow ++ sboxRowsHigh

/-- Rows of one length lie one after the other in the linear list. -/
theorem getElem?_flatten_of_row_length {α : Type} {n c : Nat} (hc : c < n) {rows : List (List α)}
    (hlen : ∀ row ∈ rows, row.length = n) (r : Nat) :
    rows.flatten[n * r + c]? = rows[r]?.bind (fun row => row[c]?) := by
  induction rows generalizing r with
  | nil => rfl
  | cons row rows ih =>
    have hrow : row.length = n := hlen row List.mem_cons_self
    rw [List.flatten_cons]
    cases r with
    | zero => simp [List.getElem?_append_left (hrow ▸ hc)]
    | succ r =>
      have hoff : n * (r + 1) + c - row.length = n * r + c := by rw [hrow, Nat.mul_succ]; omega
      rw [List.getElem?_append_right (by rw [hrow, Nat.mul_succ]; omega), hoff]
      exact ih (fun row' h => hlen row' (List.mem_cons_of_mem _ h)) r

theorem sboxGrid_length : sboxGrid.length = 16 := by decide

theorem row_length_of_mem_sboxGrid : ∀ row ∈ sboxGrid, row.length = 16 := by decide

theorem entry_lt_of_mem_sboxGrid : ∀ row ∈ sboxGrid, ∀ y ∈ row, y < 256 := by decide

theorem highNibble_toNat (x : Byte) : (x >>> 4).toNat = x.toNat / 16 := by
  rw [BitVec.toNat_ushiftRight, Nat.shiftRight_eq_div_pow]

theorem lowNibble_toNat (x : Byte) : (x &&& 0x0F#8).toNat = x.toNat % 16 := by
  rw [BitVec.toNat_and]
  exact Nat.and_two_pow_sub_one_eq_mod x.toNat 4

/-- The read finds a row and a column, and no entry is cut by the width of a byte. -/
theorem sboxGrid_getElem? (x : Byte) :
    sboxGrid[(x >>> 4).toNat]?.bind (fun row => row[(x &&& 0x0F#8).toNat]?) = some (sboxRead x).toNat := by
  have hr : (x >>> 4).toNat < sboxGrid.length := by rw [sboxGrid_length, highNibble_toNat]; omega
  have hmem : sboxGrid[(x >>> 4).toNat] ∈ sboxGrid := List.getElem_mem hr
  have hc : (x &&& 0x0F#8).toNat < sboxGrid[(x >>> 4).toNat].length := by
    rw [row_length_of_mem_sboxGrid _ hmem, lowNibble_toNat]; omega
  have hy := entry_lt_of_mem_sboxGrid _ hmem _ (List.getElem_mem hc)
  have hread : (sboxRead x).toNat = sboxGrid[(x >>> 4).toNat][(x &&& 0x0F#8).toNat] := by
    unfold sboxRead
    rw [List.getD_eq_getElem _ _ hr, List.getD_eq_getElem _ _ hc, BitVec.toNat_ofNat, Nat.mod_eq_of_lt hy]
  rw [List.getElem?_eq_getElem hr, Option.bind_some, List.getElem?_eq_getElem hc, hread]

theorem sboxGrid_flatten_getElem? (x : Byte) : sboxGrid.flatten[x.toNat]? = some (sboxRead x).toNat := by
  have hx : x.toNat = 16 * (x >>> 4).toNat + (x &&& 0x0F#8).toNat := by
    rw [highNibble_toNat, lowNibble_toNat, Nat.div_add_mod]
  have hc : (x &&& 0x0F#8).toNat < 16 := by rw [lowNibble_toNat]; omega
  rw [hx, getElem?_flatten_of_row_length hc row_length_of_mem_sboxGrid, sboxGrid_getElem?]

/-- Settles O46: the byte read, at the grid's two nibbles and at the linear address. -/
theorem sboxReadsTheGrid : Obligations.SboxReadsTheGrid := fun x _ =>
  ⟨sboxRead x, rfl, sboxGrid_getElem? x, sboxGrid_flatten_getElem? x⟩

end Sys2Proof.Machine
end

section
/-! PROOF. The key schedule (42_key_schedule.md R110 to R118): its functions on words, its round constants, the
recurrence, and the load that starts an expansion. -/

namespace Sys2Proof.Machine

/-! ### RotWord (42_key_schedule.md R110) -/

theorem rotWord_word (b0 b1 b2 b3 : Byte) : rotWord (word b0 b1 b2 b3) = word b1 b2 b3 b0 := by
  ext i hi
  simp only [rotWord, word, BitVec.getElem_or, BitVec.getElem_shiftLeft, BitVec.getElem_ushiftRight, BitVec.getElem_append,
    BitVec.getLsbD_append]
  grind

theorem rotWord_four (w : Word) : rotWord (rotWord (rotWord (rotWord w))) = w := by
  rw [← word_byteOf w, rotWord_word, rotWord_word, rotWord_word, rotWord_word]

/-- Settles O49: everything but the row itself follows from the rotation of the four bytes. -/
theorem rotWordRotatesByOneByte : Obligations.RotWordRotatesByOneByte :=
  ⟨fun _ _ => rfl, rotWord_word, fun b => rotWord_word b b b b, rotWord_four, by decide⟩

/-! ### SubWord (42_key_schedule.md R111) -/

theorem exec_subWord (w : Word) (s : State) : exec (.subWord w) s = .next (s.drive (.word (subWord w))) := rfl

@[simp] theorem subWord_word (b0 b1 b2 b3 : Byte) :
    subWord (word b0 b1 b2 b3) = word (sboxRead b0) (sboxRead b1) (sboxRead b2) (sboxRead b3) := by
  simp [subWord]

theorem byteOf_subWord (w : Word) (j : Fin 4) : byteOf j.val (subWord w) = sboxRead (byteOf j.val w) := by
  unfold subWord
  match j with
  | 0 => exact byteOf_zero_word ..
  | 1 => exact byteOf_one_word ..
  | 2 => exact byteOf_two_word ..
  | 3 => exact byteOf_three_word ..

/-- Substituting each byte does not depend on its place. -/
theorem subWord_rotWord (w : Word) : subWord (rotWord w) = rotWord (subWord w) := by
  rw [← word_byteOf w, rotWord_word, subWord_word, subWord_word, rotWord_word]

/-- Settles O50: the four bytes of the output, as one word and one by one. -/
theorem subWordSubstitutesEachByte : Obligations.SubWordSubstitutesEachByte :=
  ⟨fun b0 b1 b2 b3 s => by rw [exec_subWord, subWord_word]; rfl,
    fun w s => ⟨subWord w, exec_subWord w s, byteOf_subWord w⟩, subWord_rotWord, by decide, by decide⟩

/-! ### The round constants (42_key_schedule.md R112) -/

theorem exec_rcon {i : BitVec 4} (h : i.toNat ≤ 10) (s : State) :
    exec (.rcon i) s = .next (s.drive (.word (rconRead i.toNat))) := if_pos h

theorem exists_rconRom {r : Nat} (h1 : 1 ≤ r) (h10 : r ≤ 10) : ∃ c, rconRom r = some c := by
  have hall : ∀ i : Fin 10, (rconRom (i.val + 1)).isSome := by decide
  obtain ⟨i, rfl⟩ : ∃ i, r = i + 1 := ⟨r - 1, by omega⟩
  exact Option.isSome_iff_exists.1 (hall ⟨i, by omega⟩)

/-- A round constant is its top byte. -/
theorem rconRead_eq_word (i : Fin 10) : rconRead (i.val + 1) = word (xtime^[i.val] 1) 0 0 0 := by
  have hlow : ∀ i : Fin 10, rconRead (i.val + 1) = word (byteOf 0 (rconRead (i.val + 1))) 0 0 0 := by decide
  rw [hlow, byteOf_rconRead]

/-- Settles O51: an address 1 to 10 is one above an index of the table's list. -/
theorem rconHoldsThePowersOfTwo : Obligations.RconHoldsThePowersOfTwo := by
  have htable : ∀ i : Fin 10, [0x01000000#32, 0x02000000, 0x04000000, 0x08000000, 0x10000000, 0x20000000, 0x40000000,
      0x80000000, 0x1b000000, 0x36000000][i.val]? = some (rconRead (i.val + 1)) := by decide
  have htwo : gmul 2 = xtime := funext fun a => (gmul_comm 2 a).trans (gmul_two a)
  refine ⟨fun i s h1 h10 => ⟨rconRead i.toNat, exec_rcon h10 s, ?_⟩, fun s => ⟨rconRead 0, exec_rcon (Nat.zero_le _) s⟩⟩
  obtain ⟨n, hn⟩ : ∃ n, i.toNat = n + 1 := ⟨i.toNat - 1, by omega⟩
  rw [hn, Nat.add_sub_cancel, htwo]
  exact ⟨htable ⟨n, by omega⟩, rconRead_eq_word ⟨n, by omega⟩⟩

/-! ### The words of the key (42_key_schedule.md R113) -/

theorem blockWord_ofBus (x : BitVec 128) (c : Fin 4) : blockWord (ofBus x) c = x.extractLsb' (32 * (3 - c.val)) 32 := by
  rw [← busOf_word, busOf_ofBus]

theorem exec_keyWords (K : Block) (s : State) :
    exec (.keyWords K) s = .next (s.drive (.keyWords (blockWord K 0) (blockWord K 1) (blockWord K 2) (blockWord K 3))) :=
  rfl

/-- Settles O52: the example's words are the four 32-bit parts of the bus. -/
theorem keyWordsAreTheColumns : Obligations.KeyWordsAreTheColumns :=
  ⟨exec_keyWords, fun s => by simp only [exec_keyWords, blockWord_ofBus]; rfl⟩

/-! ### The recurrence (42_key_schedule.md R114) -/

theorem exec_nextWord {i : BitVec 6} (h4 : 4 ≤ i.toNat) (h43 : i.toNat ≤ 43) (prev back : Word) (s : State) :
    exec (.nextWord i prev back) s = .next (s.drive (.word (nextWord i.toNat prev back))) := if_pos ⟨h4, h43⟩

theorem nextWord_of_not_dvd {i : Nat} (h : i % 4 ≠ 0) (prev back : Word) : nextWord i prev back = back ^^^ prev := by
  rw [nextWord, if_neg h]

theorem nextWord_of_dvd {i : Nat} {c : Word} (h : i % 4 = 0) (hc : rconRom (i / 4) = some c) (prev back : Word) :
    nextWord i prev back = back ^^^ (subWord (rotWord prev) ^^^ c) := by
  rw [nextWord, if_pos h, rconRead_of_entry hc]

/-- Settles O53: case by case of the index, whose quotient by 4 is an address 1 to 10 of the ROM. -/
theorem nextWordIsTheRecurrence : Obligations.NextWordIsTheRecurrence := by
  refine ⟨fun i prev back s h4 h43 => ⟨_, exec_nextWord h4 h43 prev back s, fun h => ?_, fun h => ?_⟩, by decide, by decide⟩
  · exact nextWord_of_not_dvd h prev back
  · obtain ⟨c, hc⟩ := exists_rconRom (r := i.toNat / 4) (by omega) (by omega)
    exact ⟨c, hc, nextWord_of_dvd h hc prev back⟩

/-! ### The schedule of a key (42_key_schedule.md R115, R116) -/

theorem rkByte_expandKey_key (K : Block) (i : Fin 16) : rkByte (expandKey K) i.val = K[i] := by
  have hi : 4 * (i.val / 4) + i.val % 4 = i.val := by omega
  have hword : expandWord K (i.val / 4) = blockWord K ⟨i.val / 4, by omega⟩ := expandWord_key K ⟨i.val / 4, by omega⟩
  rw [rkByte_expandKey K (by omega), hword, byteOf_blockWord K _ (by omega)]
  simp [hi]

/-- The recurrence between the words as the round-key RAM holds them. -/
theorem rkWord_expandKey_next (K : Block) {n : Nat} (h : n < 40) :
    rkWord (expandKey K) (n + 4) = nextWord (n + 4) (rkWord (expandKey K) (n + 3)) (rkWord (expandKey K) n) := by
  rw [rkWord_expandKey K (by omega), rkWord_expandKey K (by omega), rkWord_expandKey K (by omega), expandWord_next]

theorem expandedBelow_expandKey (K : Block) : Safety.expandedBelow (expandKey K) 44 := by
  intro i h4 h44
  obtain ⟨n, rfl⟩ : ∃ n, i = n + 4 := ⟨i - 4, by omega⟩
  exact rkWord_expandKey_next K (by omega)

/-- Settles O55: the key in the first 16 bytes, the recurrence for the 40 words after it. -/
theorem expandKeyFnIsTheSchedule : Obligations.ExpandKeyFnIsTheSchedule := fun K _ =>
  ⟨expandKey K, rfl, rkByte_expandKey_key K, fun i h4 h43 => expandedBelow_expandKey K i h4 (by omega)⟩

/-- The first word of round key `m + 1`: its index is a multiple of 4, and the ROM is read at `m + 1`. -/
theorem rkWord_expandKey_first (K : Block) {m : Nat} (hm : m < 10) {c : Word} (hc : rconRom (m + 1) = some c) :
    rkWord (expandKey K) (4 * m + 4) =
      rkWord (expandKey K) (4 * m) ^^^ subWord (rotWord (rkWord (expandKey K) (4 * m + 3))) ^^^ c := by
  have hdiv : (4 * m + 4) / 4 = m + 1 := by omega
  rw [rkWord_expandKey_next K (by omega), nextWord_of_dvd (by omega) (by rw [hdiv, hc]), BitVec.xor_assoc]

/-- The other words of round key `m + 1`, `j = 1 .. 3`. -/
theorem rkWord_expandKey_other (K : Block) {m j : Nat} (hm : m < 10) (h1 : 1 ≤ j) (h3 : j ≤ 3) :
    rkWord (expandKey K) (4 * m + j + 4) =
      rkWord (expandKey K) (4 * m + j) ^^^ rkWord (expandKey K) (4 * m + j + 3) := by
  rw [rkWord_expandKey_next K (by omega), nextWord_of_not_dvd (by omega)]

/-- Settles O56: for the round `m + 1`, the recurrence at the words `4m + 4` to `4m + 7`. -/
theorem roundKeysFollowFromTheOneBefore : Obligations.RoundKeysFollowFromTheOneBefore := by
  refine fun K => ⟨rkByte_expandKey_key K, fun r h1 h10 => ?_⟩
  obtain ⟨c, hc⟩ := exists_rconRom h1 h10
  obtain ⟨m, rfl⟩ : ∃ m, r = m + 1 := ⟨r - 1, by omega⟩
  have hm : m < 10 := by omega
  exact ⟨c, hc, rkWord_expandKey_first K hm hc, rkWord_expandKey_other K hm (j := 1) (by decide) (by decide),
    rkWord_expandKey_other K hm (j := 2) (by decide) (by decide),
    rkWord_expandKey_other K hm (j := 3) (by decide) (by decide)⟩

/-! ### The load (42_key_schedule.md R118, 44_cipher_driver.md R153) -/

theorem exec_expandKey_accepted {s : State} (hb : s.busy = false) (din : Block) :
    exec (.expandKey 16 din) s = .next (s.accept.kxLoad din) := by
  simp [exec, execExpandKey, lenOk, hb]

/-- Settles O23: both loads write `rkLoad s.RK din`, whose bytes and words Laws/Ram.lean gives. -/
theorem expandKeyLoadsTheKey : Obligations.ExpandKeyLoadsTheKey := by
  refine fun din s => ⟨rkLoad s.RK din, rfl, fun hb => exec_expandKey_accepted hb din, fun i => ?_, fun a ha => ?_,
    rkWord_load s.RK din⟩
  · exact (rkByte_load s.RK din i.val).trans (dif_pos i.isLt)
  · exact (rkByte_load s.RK din a).trans (dif_neg (by omega))

end Sys2Proof.Machine
end

section
/-! PROOF. The round transformations (43_round_transforms.md R130 to R137): each stage byte by byte in the linear and in
the matrix view, and column mixing as a linear map. -/

namespace Sys2Proof.Machine

/-! ### SubBytes (R130) -/

theorem exec_subBytes (s : State) : exec .subBytes s = .next (s.writeS (subBytes s.S)) := rfl

/-- The table is applied to each byte wherever it stands, so it does not matter whether the rows are rotated first. -/
theorem subBytes_shiftRows (s : Block) : subBytes (shiftRows s) = shiftRows (subBytes s) :=
  block_ext fun r c => by simp only [matrixByte_subBytes, matrixByte_shiftRows]

theorem subBytes_noOperand (i : Fin 16) : (subBytes noOperand)[i] = 0x63 := by
  have hzero : noOperand[i.val] = 0 := Vector.getElem_ofFn i.isLt
  calc (subBytes noOperand)[i.val]
      _ = sboxRead noOperand[i.val] := subBytes_getElem noOperand i.val i.isLt
      _ = sboxRead 0 := by rw [hzero]
      _ = 0x63 := by decide

/-- Settles O34: the bytes of the stage's output are those of `subBytes`. -/
theorem subBytesReplacesEveryByte : Obligations.SubBytesReplacesEveryByte :=
  ⟨fun s => ⟨subBytes s.S, exec_subBytes s, fun i => subBytes_getElem s.S i.val i.isLt⟩, subBytes_shiftRows,
    subBytes_noOperand⟩

/-! ### ShiftRows (R131, R132) -/

theorem exec_shiftRows (s : State) : exec .shiftRows s = .next (s.writeS (shiftRows s.S)) := rfl

/-- R132's table: byte `i = 4c + r` comes from byte `4(c + r mod 4) + r`, which is `5i mod 16`. -/
theorem shiftRows_getElem (s : Block) (i : Fin 16) : (shiftRows s)[i] = s[5 * i] := by
  have hindex : 4 * ((i.val / 4 + i.val % 4) % 4) + i.val % 4 = (5 * i).val := by
    rw [Fin.val_mul]
    have : (5 : Fin 16).val = 5 := rfl
    omega
  simp only [Fin.getElem_fin, ← hindex]
  exact Vector.getElem_ofFn i.isLt

/-- A row of four bytes, rotated four times by the same number of places, is back in place. -/
theorem shiftRows_four (s : Block) : shiftRows (shiftRows (shiftRows (shiftRows s))) = s := by
  have hplace : ∀ r c : Fin 4, c + r + r + r + r = c := by decide
  exact block_ext fun r c => by simp only [matrixByte_shiftRows, hplace]

/-- Settles O35: the two views of `shiftRows`, and its order. -/
theorem shiftRowsRotatesRowR : Obligations.ShiftRowsRotatesRowR :=
  ⟨fun s => ⟨shiftRows s.S, exec_shiftRows s, matrixByte_shiftRows s.S, shiftRows_getElem s.S⟩, shiftRows_four⟩

/-! ### MixColumn and MixColumns (R133, R135, R136) -/

theorem exec_mixColumn (c : Column) (s : State) : exec (.mixColumn c) s = .next (s.drive (.column (mixColumn c))) := rfl

theorem exec_mixColumns (s : State) : exec .mixColumns s = .next (s.writeS (mixColumns s.S)) := rfl

/-- Row `r` of the matrix times the column; the model leaves out the products with the entries 1. -/
theorem columnRow_mixColumn (c : Column) (r : Fin 4) :
    columnRow (mixColumn c) r =
      gmul ((Config.mixMatrix[r.val]).getD 0 0) c.s0 ^^^ gmul ((Config.mixMatrix[r.val]).getD 1 0) c.s1
        ^^^ gmul ((Config.mixMatrix[r.val]).getD 2 0) c.s2 ^^^ gmul ((Config.mixMatrix[r.val]).getD 3 0) c.s3 := by
  have hone : ∀ a, gmul 1#8 a = a := one_gmul
  fin_cases r <;> simp [columnRow, mixColumn, hone]

/-- Settles O36: the column on the wire is `mixColumn c`, row by row the product with the matrix. -/
theorem mixColumnIsTheMatrixProduct : Obligations.MixColumnIsTheMatrixProduct := fun c s =>
  ⟨mixColumn c, exec_mixColumn c s, columnRow_mixColumn c⟩

/-- Settles O37: the columns of `mixColumns`. -/
theorem mixColumnsMixesEachColumn : Obligations.MixColumnsMixesEachColumn := fun s =>
  ⟨mixColumns s.S, exec_mixColumns s, matrixColumn_mixColumns s.S⟩

/-- The XOR of two columns, row by row. -/
def columnXor (a b : Column) : Column := ⟨a.s0 ^^^ b.s0, a.s1 ^^^ b.s1, a.s2 ^^^ b.s2, a.s3 ^^^ b.s3⟩

theorem columnRow_columnXor (a b : Column) (r : Fin 4) :
    columnRow (columnXor a b) r = columnRow a r ^^^ columnRow b r := by
  match r with
  | 0 => rfl
  | 1 => rfl
  | 2 => rfl
  | 3 => rfl

theorem matrixColumn_addRoundKey (s k : Block) (c : Fin 4) :
    matrixColumn (addRoundKey s k) c = columnXor (matrixColumn s c) (matrixColumn k c) := by
  simp only [matrixColumn, matrixByte_addRoundKey, columnXor]

/-- Each product distributes over the XOR (R90), and the XOR of the products can be regrouped. -/
theorem mixColumn_columnXor (a b : Column) : mixColumn (columnXor a b) = columnXor (mixColumn a) (mixColumn b) := by
  simp only [mixColumn, columnXor, gmul_xor_right, Column.mk.injEq]
  refine ⟨?_, ?_, ?_, ?_⟩ <;> ac_rfl

theorem mixColumns_addRoundKey (A B : Block) :
    mixColumns (addRoundKey A B) = addRoundKey (mixColumns A) (mixColumns B) :=
  block_ext fun r c => by
    rw [matrixByte_mixColumns, matrixColumn_addRoundKey, mixColumn_columnXor, columnRow_columnXor, matrixByte_addRoundKey,
      matrixByte_mixColumns, matrixByte_mixColumns]

/-- Settles O38: one column, and from it the state, whose columns are mixed one by one. -/
theorem columnMixingIsLinear : Obligations.ColumnMixingIsLinear := ⟨mixColumn_columnXor, mixColumns_addRoundKey⟩

/-! ### AddRoundKey (R134) -/

theorem exec_addRoundKey {s : State} (h : s.RND.toNat ≤ 10) :
    exec .addRoundKey s = .next (s.writeS (addRoundKey s.S (rkRoundKey s.RK s.RND.toNat))) :=
  exec_addRoundKey_writeS h s.S

theorem addRoundKey_comm (s k : Block) : addRoundKey s k = addRoundKey k s :=
  block_ext fun r c => by rw [matrixByte_addRoundKey, matrixByte_addRoundKey, BitVec.xor_comm]

theorem addRoundKey_addRoundKey (s k : Block) : addRoundKey (addRoundKey s k) k = s :=
  block_ext fun r c => by
    rw [matrixByte_addRoundKey, matrixByte_addRoundKey, BitVec.xor_assoc, BitVec.xor_self, BitVec.xor_zero]

/-- Settles O39: both views of the XOR with the round key, and the XOR's own laws. -/
theorem addRoundKeyXorsByteForByte : Obligations.AddRoundKeyXorsByteForByte := by
  refine ⟨fun s h => ⟨_, exec_addRoundKey h, fun i => ?_, fun r c => ?_⟩, fun s k =>
    ⟨addRoundKey_addRoundKey s k, addRoundKey_comm s k⟩⟩
  · simp only [Fin.getElem_fin, addRoundKey_getElem, rkRoundKey_getElem]
  · rw [matrixByte_addRoundKey, matrixByte_roundKey]

/-! ### RoundFn (R137) -/

theorem exec_roundFn (ctl : BitVec 4) (b k : Block) (s : State) :
    exec (.roundFn ctl b k) s = .next (s.drive (.block (roundFn ctl b k))) := rfl

theorem roundFn_initial (b k : Block) : roundFn 0b0001 b k = addRoundKey b k := rfl

theorem roundFn_round (b k : Block) : roundFn 0b1111 b k = addRoundKey (mixColumns (shiftRows (subBytes b))) k := rfl

theorem roundFn_final (b k : Block) : roundFn 0b1101 b k = addRoundKey (shiftRows (subBytes b)) k := rfl

/-- Settles O40: the nested stages are those of `roundFn`, and the sequencer's three words are evaluated. -/
theorem roundFnComposesTheEnabledStages : Obligations.RoundFnComposesTheEnabledStages := fun ctl b k s =>
  ⟨exec_roundFn ctl b k s, roundFn_initial b k, roundFn_round b k, roundFn_final b k⟩

end Sys2Proof.Machine
end

section
/-! PROOF. The cipher driver, one step at a time (44_cipher_driver.md R150 to R164): the rows of the sequencer, the next
state of a legal state's micro-operation, and what a step does to the control registers. -/

namespace Sys2Proof.Machine

/-! ### The rows of the sequencer and of the commands -/

theorem exec_seqIdle {s : State} (hp : s.PHASE = .idle) : exec .seqIdle s = .next s :=
  unlessStuck_of_true (by simp [hp]) s

theorem exec_seqDone {s : State} (hp : s.PHASE = .done) : exec .seqDone s = .next s :=
  unlessStuck_of_true (by simp [hp]) s

theorem exec_kxStep {s : State} (hp : s.PHASE = .kexp) (h4 : 4 ≤ s.KI.toNat) (h43 : s.KI.toNat ≤ 43) :
    exec .kxStep s = .next s.kxStep :=
  unlessStuck_of_true (s.kxStepReady_iff.2 ⟨hp, h4, h43⟩) s.kxStep

theorem exec_seqInitial {s : State} (hp : s.PHASE = .initial) (h0 : s.RND.toNat = 0) :
    exec .seqInitial s = .next s.seqInitial :=
  unlessStuck_of_true (by simp [hp, h0]) s.seqInitial

theorem exec_seqRound {s : State} (hp : s.PHASE = .round) (h1 : 1 ≤ s.RND.toNat) (h9 : s.RND.toNat ≤ 9) :
    exec .seqRound s = .next s.seqRound :=
  unlessStuck_of_true (by simp [hp, h1, h9]) s.seqRound

theorem exec_seqFinal {s : State} (hp : s.PHASE = .final) (h10 : s.RND.toNat = 10) :
    exec .seqFinal s = .next s.seqFinal :=
  unlessStuck_of_true (by simp [hp, h10]) s.seqFinal

theorem exec_nop (len : BitVec 5) (s : State) : exec (.nop len) s = seqOp s := rfl

theorem exec_encryptBlock_accepted {s : State} (hb : s.busy = false) (hv : s.KVALID = true) (din : Block) :
    exec (.encryptBlock 16 din) s = .next (s.accept.encLoad din) := by
  simp [exec, execEncryptBlock, lenOk, hb, hv]

theorem exec_encryptBlockFn (P : Block) (sched : Schedule) (s : State) :
    exec (.encryptBlockFn P sched) s = .next (s.drive (.block (encryptBlock P sched))) := rfl

/-- Settles O28: neither row writes a register where `PHASE` selects it. -/
theorem idleAndDoneChangeNothing : Obligations.IdleAndDoneChangeNothing := fun _ => ⟨exec_seqIdle, exec_seqDone⟩

/-- Settles O30: the word at `KI` is written, and Laws/Ram.lean says what a word write leaves. -/
theorem kxStepWritesOneWord : Obligations.KxStepWritesOneWord := by
  intro s hp h4 h43
  refine ⟨s.kxStep.RK, ?_, rfl, rkWord_writeWord_same s.RK (by omega) _,
    fun a _ => rkByte_writeWord s.RK (by omega) _ a⟩
  rw [exec_kxStep hp h4 h43, State.kxStep, hp]

/-- Settles O31: the stage-enable word 0001 leaves the key combination alone, with the round key `RND = 0` names. -/
theorem seqInitialAddsRoundKeyZero : Obligations.SeqInitialAddsRoundKeyZero := by
  refine ⟨fun s hp h0 => ⟨?_, (roundFn_initial _ _).symm⟩, by decide⟩
  rw [exec_seqInitial hp (by simp [h0]), State.seqInitial, State.pipeline, h0]
  rfl

/-- Settles O32: the stage-enable word 1111 is all four stages. -/
theorem seqRoundAppliesAllStages : Obligations.SeqRoundAppliesAllStages := by
  refine ⟨fun s hp h1 h9 => ⟨?_, (roundFn_round _ _).symm⟩, by decide +kernel⟩
  rw [exec_seqRound hp h1 h9, State.seqRound, hp]
  rfl

/-- Settles O33: the stage-enable word 1101 leaves column mixing out, and in `DONE` the flags follow from `PHASE`. -/
theorem seqFinalOmitsColumnMixing : Obligations.SeqFinalOmitsColumnMixing := by
  refine ⟨fun s hp h10 => ⟨s.seqFinal, exec_seqFinal hp h10, ?_, (roundFn_final _ _).symm, rfl, rfl, ?_⟩,
    by decide +kernel⟩
  · rw [State.seqFinal, State.pipeline, h10]
    rfl
  · rw [State.dout, State.seqFinal_S, State.pipeline, h10]
    rfl

/-- Settles O24: the plaintext itself is loaded, and byte `i` of a block stands in row `i mod 4`, column `i div 4`. -/
theorem encryptBlockLoadsThePlaintext : Obligations.EncryptBlockLoadsThePlaintext := by
  refine fun din s => ⟨din, rfl, fun hb hv => exec_encryptBlock_accepted hb hv din, fun _ => rfl, fun i => ?_⟩
  have hi : 4 * (i.val / 4) + i.val % 4 = i.val := by omega
  simp [matrixByte, hi]

/-- 95_test_vectors.md V5. -/
theorem encryptBlock_known_answer :
    encryptBlock (ofBus 0x00112233445566778899aabbccddeeff) (expandKey (ofBus 0x000102030405060708090a0b0c0d0e0f)) =
      ofBus 0x69c4e0d86a7b0430d8cdb78070b4c55a := by decide +kernel

/-- Settles O42: the recurrence is that of `encryptRounds`. -/
theorem encryptBlockFnIsTheCipher : Obligations.EncryptBlockFnIsTheCipher := by
  refine ⟨fun P sched s => ⟨encryptRounds P sched, rfl, fun r h1 _ => ?_, exec_encryptBlockFn P sched s⟩, fun s => ?_⟩
  · obtain ⟨n, rfl⟩ : ∃ n, r = n + 1 := ⟨r - 1, by omega⟩
    rfl
  · rw [exec_encryptBlockFn, encryptBlock_known_answer]
    rfl

/-! ### The next state of a micro-operation -/

theorem RND_succ_toNat {s : State} (h : s.RND.toNat ≤ 10) : (s.RND + 1).toNat = s.RND.toNat + 1 := by bv_omega

/-- The state `SeqOp` goes on to, where it does. -/
def State.seqNext (s : State) : State :=
  match s.PHASE with
  | .idle => s
  | .kexp => s.kxStep
  | .initial => s.seqInitial
  | .round => s.seqRound
  | .final => s.seqFinal
  | .done => s

theorem State.seqNext_idle {s : State} (hp : s.PHASE = .idle) : s.seqNext = s := by rw [State.seqNext, hp]
theorem State.seqNext_kexp {s : State} (hp : s.PHASE = .kexp) : s.seqNext = s.kxStep := by rw [State.seqNext, hp]
theorem State.seqNext_initial {s : State} (hp : s.PHASE = .initial) : s.seqNext = s.seqInitial := by
  rw [State.seqNext, hp]
theorem State.seqNext_round {s : State} (hp : s.PHASE = .round) : s.seqNext = s.seqRound := by rw [State.seqNext, hp]
theorem State.seqNext_final {s : State} (hp : s.PHASE = .final) : s.seqNext = s.seqFinal := by rw [State.seqNext, hp]
theorem State.seqNext_done {s : State} (hp : s.PHASE = .done) : s.seqNext = s := by rw [State.seqNext, hp]

theorem eq_seqNext_of_seqOp {s t : State} (h : seqOp s = .next t) : t = s.seqNext := by
  rcases seqOp_cases h with ⟨hp, rfl⟩ | ⟨hp, -, rfl⟩ | ⟨hp, -, rfl⟩ | ⟨hp, -, -, rfl⟩ | ⟨hp, -, rfl⟩ | ⟨hp, rfl⟩
  · exact (State.seqNext_idle hp).symm
  · exact (State.seqNext_kexp hp).symm
  · exact (State.seqNext_initial hp).symm
  · exact (State.seqNext_round hp).symm
  · exact (State.seqNext_final hp).symm
  · exact (State.seqNext_done hp).symm

theorem seqOp_eq_seqNext {s : State} (hw : s.wf) : seqOp s = .next s.seqNext := by
  obtain ⟨t, ht⟩ : ∃ t, seqOp s = .next t := by
    rcases seqOp_of_wf hw with ⟨-, h⟩ | ⟨-, h⟩ | ⟨-, h⟩ | ⟨-, h⟩ | ⟨-, h⟩ | ⟨-, h⟩ <;> exact ⟨_, h⟩
  rw [ht, eq_seqNext_of_seqOp ht]

/-- Settles O22: `SeqOp` goes on, is what `PHASE` decodes to, and writes neither status register. -/
theorem nopRunsTheSequencer : Obligations.NopRunsTheSequencer := by
  intro len s hw
  obtain ⟨i, hdecode, hexec⟩ := decodeSeq_phaseCode s s.PHASE rfl s rfl
  have hnext := seqOp_eq_seqNext hw
  obtain ⟨herr, heflag, -⟩ := seqOp_keeps hnext
  exact ⟨i, s.seqNext, hdecode, hnext, hexec.trans hnext, herr, heflag⟩

/-! ### The step -/

/-- Settles O6: `step_of_rst` and `step_of_wf`, with the decoder's reading of `PHASE`. -/
theorem stepRunsTheDecodedInstruction : Obligations.StepRunsTheDecodedInstruction := by
  refine fun s => ⟨step_of_rst, fun hr hw hc => ?_, fun hr hw hc => ?_⟩
  · rw [step_of_wf hr hw, if_pos hc]
    rfl
  · obtain ⟨i, hdecode, hexec⟩ := decodeSeq_phaseCode s s.PHASE rfl (s.offer s.inputs.tail) rfl
    refine ⟨i, hdecode, ?_⟩
    rw [step_of_wf hr hw, hc, hexec]
    rfl

/-- The ports are sampled and the status registers written: what the micro-operation of a step starts from. -/
def State.recorded (s : State) (e : ErrCode) (f : Bool) : State := { s.sampled with ERR := e, EFLAG := f }

theorem State.recorded_wf (s : State) (e : ErrCode) (f : Bool) : (s.recorded e f).wf ↔ s.wf :=
  State.wf_congr rfl rfl rfl rfl

/-- `step_cases` without its first case: the micro-operation, or one of the two loads. -/
theorem step_cases_of_not_rst {s t : State} (hr : s.port.rst = false) (h : step s = .next t) :
    (∃ e f, t = (s.recorded e f).seqNext)
    ∨ (t = s.sampled.accept.kxLoad s.port.din ∧ s.port.cmdValid = true ∧ s.port.cmd = 0x30#8 ∧ s.busy = false)
    ∨ (t = s.sampled.accept.encLoad s.port.din ∧ s.port.cmdValid = true ∧ s.port.cmd = 0x50#8 ∧ s.busy = false
        ∧ s.KVALID = true) := by
  rcases step_cases h with ⟨hrst, -⟩ | ⟨-, -, ⟨hs, -⟩ | ⟨k, hs, -⟩ | hkey | henc⟩
  · simp [hr] at hrst
  · exact Or.inl ⟨s.ERR, s.EFLAG, eq_seqNext_of_seqOp hs⟩
  · exact Or.inl ⟨.rejected k, true, eq_seqNext_of_seqOp hs⟩
  · exact Or.inr (Or.inl hkey)
  · exact Or.inr (Or.inr henc)

theorem step_of_expandKey {s : State} (hw : s.wf) (hr : s.port.rst = false) (hc : s.port.cmdValid = true)
    (hcmd : s.port.cmd = 0x30#8) (hb : s.busy = false) : step s = .next (s.sampled.accept.kxLoad s.port.din) := by
  rw [step_of_wf hr hw, if_pos hc, hcmd]
  exact exec_expandKey_accepted (s := s.sampled) hb _

theorem step_of_encryptBlock {s : State} (hw : s.wf) (hr : s.port.rst = false) (hc : s.port.cmdValid = true)
    (hcmd : s.port.cmd = 0x50#8) (hb : s.busy = false) (hv : s.KVALID = true) :
    step s = .next (s.sampled.accept.encLoad s.port.din) := by
  rw [step_of_wf hr hw, if_pos hc, hcmd]
  exact exec_encryptBlock_accepted (s := s.sampled) hb hv _

/-! ### The control registers (44_cipher_driver.md R161, R164) -/

/-- The registers that decide which micro-operation comes next and what the flags show. -/
def State.control (s : State) : Phase × BitVec 4 × BitVec 6 × Bool × ErrCode × Bool :=
  (s.PHASE, s.RND, s.KI, s.KVALID, s.ERR, s.EFLAG)

theorem State.control_eq_iff {s u : State} : s.control = u.control ↔
    s.PHASE = u.PHASE ∧ s.RND = u.RND ∧ s.KI = u.KI ∧ s.KVALID = u.KVALID ∧ s.ERR = u.ERR ∧ s.EFLAG = u.EFLAG := by
  simp [State.control]

theorem State.seqNext_control_congr {s u : State} (h : s.control = u.control) :
    s.seqNext.control = u.seqNext.control := by
  obtain ⟨hp, hrnd, hki, hv, herr, hflag⟩ := State.control_eq_iff.1 h
  rw [State.control_eq_iff]
  cases hs : s.PHASE with
  | idle => simp [State.seqNext_idle hs, State.seqNext_idle (hp ▸ hs), *]
  | kexp => simp [State.seqNext_kexp hs, State.seqNext_kexp (hp ▸ hs), *]
  | initial => simp [State.seqNext_initial hs, State.seqNext_initial (hp ▸ hs), *]
  | round => simp [State.seqNext_round hs, State.seqNext_round (hp ▸ hs), *]
  | final => simp [State.seqNext_final hs, State.seqNext_final (hp ▸ hs), *]
  | done => simp [State.seqNext_done hs, State.seqNext_done (hp ▸ hs), *]

theorem seqOp_control_congr {s u t v : State} (h : s.control = u.control) (hs : seqOp s = .next t)
    (hu : seqOp u = .next v) : t.control = v.control := by
  rw [eq_seqNext_of_seqOp hs, eq_seqNext_of_seqOp hu, State.seqNext_control_congr h]

/-- Settles O16: both steps take the same branch of R150's chain, which `step_chain` writes out: its conditions read the
control registers and the command word only. -/
theorem controlNeverDependsOnData : Obligations.ControlNeverDependsOnData := by
  intro s u t v hp hrnd hki hv herr hflag hrst hvalid hcmd hs hu
  rw [← State.control_eq_iff]
  have hsu : s.control = u.control := State.control_eq_iff.2 ⟨hp, hrnd, hki, hv, herr, hflag⟩
  have hrejected (k : Rejection) : (s.sampled.reject k).control = (u.sampled.reject k).control :=
    State.control_eq_iff.2 ⟨hp, hrnd, hki, hv, rfl, rfl⟩
  cases hr : s.port.rst with
  | true =>
    rw [step_of_rst hr] at hs
    rw [step_of_rst (hrst ▸ hr)] at hu
    cases hs
    cases hu
    rfl
  | false =>
    have hpresents : Safety.presents u.port = Safety.presents s.port := by simp [Safety.presents, hvalid, hcmd]
    have hbusy : u.busy = s.busy := congrArg phaseBusy hp.symm
    rw [step_chain hr (wf_of_step hr hs)] at hs
    rw [step_chain (hrst ▸ hr) (wf_of_step (hrst ▸ hr) hu), hpresents, hbusy, ← hcmd, ← hv] at hu
    split_ifs at hs hu
    · exact seqOp_control_congr (s := s.sampled) (u := u.sampled) hsu hs hu
    · exact seqOp_control_congr (hrejected _) hs hu
    · exact seqOp_control_congr (hrejected _) hs hu
    · exact seqOp_control_congr (hrejected _) hs hu
    · exact seqOp_control_congr (hrejected _) hs hu
    · cases hs
      cases hu
      simp [State.control, hrnd, hflag]
    · cases hs
      cases hu
      simp [State.control, hki, hv, hflag]

/-- 44_cipher_driver.md R161, the rows of the six phases in a legal state. -/
theorem State.seqNext_table {s : State} (hw : s.wf) :
    (s.PHASE = .idle → s.seqNext.PHASE = .idle ∧ s.seqNext.RND = s.RND ∧ s.seqNext.KI = s.KI)
    ∧ (s.PHASE = .kexp → s.seqNext.PHASE = (if s.KI.toNat = 43 then .idle else .kexp)
        ∧ s.seqNext.KI.toNat = s.KI.toNat + 1 ∧ s.seqNext.RND = s.RND)
    ∧ (s.PHASE = .initial → s.seqNext.PHASE = .round ∧ s.seqNext.RND.toNat = 1 ∧ s.seqNext.KI = s.KI)
    ∧ (s.PHASE = .round → s.seqNext.PHASE = (if s.RND.toNat = 9 then .final else .round)
        ∧ s.seqNext.RND.toNat = s.RND.toNat + 1 ∧ s.seqNext.KI = s.KI)
    ∧ (s.PHASE = .final → s.seqNext.PHASE = .done ∧ s.seqNext.RND = s.RND ∧ s.seqNext.KI = s.KI)
    ∧ (s.PHASE = .done → s.seqNext.PHASE = .done ∧ s.seqNext.RND = s.RND ∧ s.seqNext.KI = s.KI) := by
  obtain ⟨hrnd, -, -, -, -, -, hkexp, -, -⟩ := hw
  refine ⟨fun hp => ?_, fun hp => ?_, fun hp => ?_, fun hp => ?_, fun hp => ?_, fun hp => ?_⟩
  · rw [State.seqNext_idle hp]
    exact ⟨hp, rfl, rfl⟩
  · obtain ⟨-, h43, -⟩ := hkexp hp
    rw [State.seqNext_kexp hp, State.kxStep_PHASE, hp]
    exact ⟨rfl, KI_succ_toNat h43, rfl⟩
  · rw [State.seqNext_initial hp]
    exact ⟨rfl, rfl, rfl⟩
  · rw [State.seqNext_round hp, State.seqRound_PHASE, hp]
    exact ⟨rfl, RND_succ_toNat hrnd, rfl⟩
  · rw [State.seqNext_final hp]
    exact ⟨rfl, rfl, rfl⟩
  · rw [State.seqNext_done hp]
    exact ⟨hp, rfl, rfl⟩

/-- Settles O17: an accepted command takes its load; otherwise the phase's row of the table, whatever status registers
the command left. -/
theorem phasesFollowTheTransitionTable : Obligations.PhasesFollowTheTransitionTable := by
  intro s t hw hr h
  refine ⟨fun ⟨⟨hc, hb⟩, hcmd⟩ => ?_, fun ⟨⟨hc, hb⟩, hcmd, hv⟩ => ?_, fun hkey henc => ?_⟩
  · rw [step_of_expandKey hw hr hc hcmd hb] at h
    cases h
    exact ⟨rfl, rfl, rfl⟩
  · rw [step_of_encryptBlock hw hr hc hcmd hb hv] at h
    cases h
    exact ⟨rfl, rfl, rfl⟩
  · rcases step_cases_of_not_rst hr h with ⟨e, f, rfl⟩ | ⟨-, hc, hcmd, hb⟩ | ⟨-, hc, hcmd, hb, hv⟩
    · exact State.seqNext_table ((s.recorded_wf e f).2 hw)
    · exact absurd ⟨⟨hc, hb⟩, hcmd⟩ hkey
    · exact absurd ⟨⟨hc, hb⟩, hcmd, hv⟩ henc

/-- Only the micro-operation of an expansion writes the schedule and its registers. -/
theorem State.seqNext_schedule {s : State} (hp : s.PHASE ≠ .kexp) :
    s.seqNext.RK = s.RK ∧ s.seqNext.KI = s.KI ∧ s.seqNext.KVALID = s.KVALID := by
  cases hs : s.PHASE with
  | idle => rw [State.seqNext_idle hs]; exact ⟨rfl, rfl, rfl⟩
  | kexp => exact absurd hs hp
  | initial => rw [State.seqNext_initial hs]; exact ⟨rfl, rfl, rfl⟩
  | round => rw [State.seqNext_round hs]; exact ⟨rfl, rfl, rfl⟩
  | final => rw [State.seqNext_final hs]; exact ⟨rfl, rfl, rfl⟩
  | done => rw [State.seqNext_done hs]; exact ⟨rfl, rfl, rfl⟩

/-- Settles O20: of the two loads only that of a plaintext is left, and it writes none of the three. -/
theorem encryptionNeverMutatesTheSchedule : Obligations.EncryptionNeverMutatesTheSchedule := by
  intro s t hr hp hkey h
  rcases step_cases_of_not_rst hr h with ⟨e, f, rfl⟩ | ⟨-, hc, hcmd, hb⟩ | ⟨rfl, -⟩
  · exact State.seqNext_schedule (s := s.recorded e f) hp
  · exact absurd ⟨hc, hcmd, hb⟩ hkey
  · exact ⟨rfl, rfl, rfl⟩

end Sys2Proof.Machine
end

section
/-! PROOF. The runs of the two operations (44_cipher_driver.md R165 to R167): what holds after each step of an expansion
and of an encryption, whatever the host presents meanwhile. -/

namespace Sys2Proof.Machine

/-! ### Runs -/

theorem step_inputs {s t : State} (h : step s = .next t) : t.inputs = s.inputs.tail := by
  rcases step_cases h with ⟨-, rfl⟩ | ⟨-, -, ⟨hs, -⟩ | ⟨k, hs, -⟩ | ⟨rfl, -⟩ | ⟨rfl, -⟩⟩
  · rfl
  · obtain ⟨-, -, hin, -⟩ := seqOp_keeps hs
    exact hin
  · obtain ⟨-, -, hin, -⟩ := seqOp_keeps hs
    exact hin
  · rfl
  · rfl

/-- The ports in step `n` of a run show sample `n` of the list, or nothing once the list is used up. -/
theorem headD_drop_of_forall_take {Q : PortSample → Prop} (hidle : Q idlePort) {ps : List PortSample} {n N : Nat}
    (hn : n < N) (hQ : ∀ p ∈ ps.take N, Q p) : Q ((ps.drop n).headD idlePort) := by
  rw [List.headD_eq_head?_getD, List.head?_drop]
  cases hp : ps[n]? with
  | none => exact hidle
  | some p => exact hQ p (List.mem_of_getElem? ((List.getElem?_take_of_lt hn).trans hp))

/-- The induction over a run of `N` steps: `P n` holds after `n` of them, if the step from each `P i` state goes on to a
`P (i + 1)` state under the condition `Q` on the sample it takes. -/
theorem run_of_steps {N : Nat} {P : Nat → State → Prop} {Q : PortSample → Prop} (hidle : Q idlePort)
    (hstep : ∀ i < N, ∀ t, P i t → Q t.port → ∃ u, step t = .next u ∧ P (i + 1) u) {s : State} (hzero : P 0 s)
    (hQ : ∀ p ∈ s.inputs.take N, Q p) (n : Nat) (hn : n ≤ N) :
    ∃ t : State, Host.Core.run Sys2Proof.core n s = .next t ∧ P n t ∧ t.inputs = s.inputs.drop n := by
  induction n with
  | zero => exact ⟨s, rfl, hzero, rfl⟩
  | succ n ih =>
    obtain ⟨t, hrun, hP, hin⟩ := ih (by omega)
    have hport : Q t.port := by
      rw [State.port, hin]
      exact headD_drop_of_forall_take hidle hn hQ
    obtain ⟨u, hu, hPu⟩ := hstep n hn t hP hport
    refine ⟨u, ?_, hPu, ?_⟩
    · rw [run_add n 1 hrun, run_succ 0 hu, run_zero]
    · rw [step_inputs hu, hin, List.tail_drop]

/-- While busy, a step without reset is the micro-operation; a rejection before it shows in the status registers only. -/
theorem step_recorded_of_busy {s : State} (hw : s.wf) (hb : s.busy = true) (hr : s.port.rst = false) :
    ∃ e f, step s = .next (s.recorded e f).seqNext ∧ (Safety.presents s.port = false → e = s.ERR) := by
  have hnext (e : ErrCode) (f : Bool) := seqOp_eq_seqNext ((s.recorded_wf e f).2 hw)
  rcases step_of_busy hw hb hr with ⟨-, h⟩ | ⟨hp, k, h⟩
  · exact ⟨s.ERR, s.EFLAG, h.trans (hnext _ _), fun _ => rfl⟩
  · exact ⟨.rejected k, true, h.trans (hnext _ _), fun hnp => by simp [hp] at hnp⟩

/-! ### Key expansion (R166) -/

/-- What an expansion asks of the host: no reset, and no command either where `quiet` is the case. -/
def Undisturbed (quiet : Prop) (q : PortSample) : Prop := q.rst = false ∧ (quiet → Safety.presents q = false)

/-- The state `t` after the expansion of `K` has started in the state `s` and `i` of its 40 steps have run. -/
structure Expanding (K : Block) (s : State) (quiet : Prop) (i : Nat) (t : State) : Prop where
  inv : Safety.Inv t
  phase : t.PHASE = if i = 40 then .idle else .kexp
  kvalid : i = 40 → t.KVALID = true
  ki : t.KI.toNat = i + 4
  key : ∀ c : Fin 4, rkWord t.RK c.val = blockWord K c
  state : t.S = s.S
  rnd : t.RND = s.RND
  err : quiet → t.ERR = .accepted

theorem kxLoad_expanding {s : State} (hw : s.wf) (K : Block) (quiet : Prop) :
    Expanding K s quiet 0 (s.sampled.accept.kxLoad K) where
  inv := ⟨State.kxLoad_wf ((State.accept_wf _).2 (s.sampled_wf.2 hw)) K, State.kxLoad_scheduleOk _ K⟩
  phase := rfl
  kvalid h := by omega
  ki := rfl
  key := rkWord_load s.RK K
  state := rfl
  rnd := rfl
  err _ := rfl

theorem step_expanding {K : Block} {s t : State} {quiet : Prop} {i : Nat} (hi : i < 40) (h : Expanding K s quiet i t)
    (hq : Undisturbed quiet t.port) : ∃ u, step t = .next u ∧ Expanding K s quiet (i + 1) u := by
  obtain ⟨hrst, hpresents⟩ := hq
  obtain ⟨hw, -⟩ := h.inv
  have hp : t.PHASE = .kexp := by rw [h.phase, if_neg hi.ne]
  have hki : t.KI.toNat = i + 4 := h.ki
  have hlast : t.KI.toNat = 43 ↔ i + 1 = 40 := by omega
  obtain ⟨e, f, hstep, he⟩ := step_recorded_of_busy hw (t.busy_eq_true.2 (by simp [hp])) hrst
  rw [State.seqNext_kexp (s := t.recorded e f) hp] at hstep
  exact ⟨_, hstep,
    { inv := scheduleInvariantIsKept t _ h.inv hstep
      phase := if_congr hlast rfl hp
      kvalid := fun hi => if_pos (hlast.2 hi)
      ki := (KI_succ_toNat (s := t) (by omega)).trans (by omega)
      key := fun c => (rkWord_writeWord_other (i := t.KI.toNat) t.RK (by omega) (by omega) _).trans (h.key c)
      state := h.state
      rnd := h.rnd
      err := fun hquiet => (he (hpresents hquiet)).trans (h.err hquiet) }⟩

theorem run_expanding {s : State} (hw : s.wf) (hr : s.port.rst = false) (hc : s.port.cmdValid = true)
    (hcmd : s.port.cmd = 0x30#8) (hb : s.busy = false) {quiet : Prop}
    (hQ : ∀ q ∈ s.inputs.tail.take 40, Undisturbed quiet q) (n : Nat) (hn : n ≤ 40) :
    ∃ t : State, Host.Core.run Sys2Proof.core (n + 1) s = .next t ∧ Expanding s.port.din s quiet n t := by
  obtain ⟨t, hrun, ht, -⟩ := run_of_steps ⟨rfl, fun _ => rfl⟩ (fun i hi t => step_expanding hi)
    (kxLoad_expanding hw s.port.din quiet) hQ n hn
  exact ⟨t, (run_succ n (step_of_expandKey hw hr hc hcmd hb)).trans hrun, ht⟩

/-- Settles O57: after 40 steps `KVALID` is set, and the schedule invariant says what `RK` then holds. -/
theorem keyExpansionEqualsItsFunction : Obligations.KeyExpansionEqualsItsFunction := by
  intro s p rest hw hin hr hc hcmd hb hreset
  obtain rfl : s.port = p := by rw [State.port, hin]; rfl
  have hrest : s.inputs.tail = rest := by rw [hin]; rfl
  obtain ⟨t, hrun, ht⟩ := run_expanding hw hr hc hcmd hb
    (quiet := ∀ q ∈ rest.take 40, Safety.presents q = false)
    (fun q hq => ⟨hreset q (hrest ▸ hq), fun hquiet => hquiet q (hrest ▸ hq)⟩) 40 le_rfl
  obtain ⟨-, hcomplete, -⟩ := ht.inv
  have hRK : t.RK = expandKey s.port.din := eq_expandKey ht.key (hcomplete (ht.kvalid rfl))
  exact ⟨t, hrun, fun i hi => by rw [hRK, rkWord_expandKey _ (by omega)], hRK, ht.kvalid rfl, ht.ki, ht.phase, ht.state,
    ht.rnd, ht.err⟩

/-! ### Encryption (R167) -/

/-- The phase of an encryption after `j` of its 11 steps (44_cipher_driver.md R161). -/
def encryptPhase (j : Nat) : Phase :=
  if j = 0 then .initial else if j ≤ 9 then .round else if j = 10 then .final else .done

/-- The state register after `j` of the 11 steps of an encryption (44_cipher_driver.md R162, R167). -/
def encryptState (P : Block) (k : Schedule) : (j : Nat) → Block
  | 0 => P
  | n + 1 => if n = 10 then encryptBlock P k else encryptRounds P k n

/-- The state `t` after the encryption of `P` has started in the state `s` and `j` of its 11 steps have run. -/
structure Encrypting (P : Block) (s : State) (j : Nat) (t : State) : Prop where
  wf : t.wf
  phase : t.PHASE = encryptPhase j
  rnd : t.RND.toNat = min j 10
  state : t.S = encryptState P s.RK j
  rk : t.RK = s.RK
  ki : t.KI = s.KI
  kvalid : t.KVALID = s.KVALID

theorem encLoad_encrypting {s : State} (hw : s.wf) (hv : s.KVALID = true) (P : Block) :
    Encrypting P s 0 (s.sampled.accept.encLoad P) where
  wf := State.encLoad_wf ((State.accept_wf _).2 (s.sampled_wf.2 hw)) hv P
  phase := rfl
  rnd := rfl
  state := rfl
  rk := rfl
  ki := rfl
  kvalid := rfl

theorem encryptPhase_of_round {j : Nat} (h1 : 1 ≤ j) (h9 : j ≤ 9) : encryptPhase j = .round := by
  rw [encryptPhase, if_neg (by omega), if_pos h9]

theorem encryptPhase_busy {j : Nat} (hj : j < 11) : phaseBusy (encryptPhase j) = true := by
  unfold encryptPhase
  split_ifs
  · rfl
  · rfl
  · rfl
  · omega

/-- The micro-operation of step `j + 1` of an encryption: the initial combination, a full round, or the final round. -/
theorem seqNext_encrypting {P : Block} {s t : State} {j : Nat} (hj : j < 11) (h : Encrypting P s j t) :
    t.seqNext.PHASE = encryptPhase (j + 1) ∧ t.seqNext.RND.toNat = min (j + 1) 10
      ∧ t.seqNext.S = encryptState P s.RK (j + 1) := by
  have hrnd : t.RND.toNat = min j 10 := h.rnd
  have hphase := h.phase
  have hstate := h.state
  rcases (by omega : j = 0 ∨ (1 ≤ j ∧ j ≤ 9) ∨ j = 10) with rfl | ⟨h1, h9⟩ | rfl
  · rw [State.seqNext_initial hphase]
    refine ⟨rfl, rfl, ?_⟩
    rw [State.seqInitial_S, State.pipeline, hstate, h.rk, hrnd]
    rfl
  · obtain ⟨n, rfl⟩ : ∃ n, j = n + 1 := ⟨j - 1, by omega⟩
    have hround : t.PHASE = .round := hphase.trans (encryptPhase_of_round h1 h9)
    have hn : t.RND.toNat = n + 1 := by omega
    rw [encryptState, if_neg (by omega)] at hstate
    rw [State.seqNext_round hround]
    refine ⟨?_, ?_, ?_⟩
    · rw [State.seqRound_PHASE, hround, hn]
      rcases h9.eq_or_lt with hlast | hlt
      · rw [hlast]
        rfl
      · rw [if_neg hlt.ne, encryptPhase_of_round (by omega) hlt]
    · rw [State.seqRound_RND, RND_succ_toNat (by omega), hn]
      omega
    · rw [State.seqRound_S, State.pipeline, hstate, h.rk, hn, encryptState, if_neg (by omega)]
      rfl
  · rw [State.seqNext_final hphase]
    refine ⟨rfl, hrnd, ?_⟩
    rw [State.seqFinal_S, State.pipeline, hstate, h.rk, hrnd]
    rfl

theorem step_encrypting {P : Block} {s t : State} {j : Nat} (hj : j < 11) (h : Encrypting P s j t)
    (hr : t.port.rst = false) : ∃ u, step t = .next u ∧ Encrypting P s (j + 1) u := by
  have hb : t.busy = true := by rw [State.busy, h.phase, encryptPhase_busy hj]
  obtain ⟨e, f, hstep, -⟩ := step_recorded_of_busy h.wf hb hr
  have hrec : Encrypting P s j (t.recorded e f) :=
    ⟨(t.recorded_wf e f).2 h.wf, h.phase, h.rnd, h.state, h.rk, h.ki, h.kvalid⟩
  have hp : (t.recorded e f).PHASE ≠ .kexp := by
    rw [hrec.phase, encryptPhase]
    split_ifs <;> decide
  obtain ⟨hphase, hrnd, hS⟩ := seqNext_encrypting hj hrec
  obtain ⟨hrk, hki, hv⟩ := State.seqNext_schedule hp
  exact ⟨_, hstep, step_wf hstep, hphase, hrnd, hS, hrk.trans h.rk, hki.trans h.ki, hv.trans h.kvalid⟩

theorem run_encrypting {s : State} (hw : s.wf) (hr : s.port.rst = false) (hc : s.port.cmdValid = true)
    (hcmd : s.port.cmd = 0x50#8) (hb : s.busy = false) (hv : s.KVALID = true)
    (hreset : Safety.noReset (s.inputs.tail.take 11)) (n : Nat) (hn : n ≤ 11) :
    ∃ t : State, Host.Core.run Sys2Proof.core (n + 1) s = .next t ∧ Encrypting s.port.din s n t := by
  obtain ⟨t, hrun, ht, -⟩ := run_of_steps (Q := fun q => q.rst = false) rfl (fun j hj t => step_encrypting hj)
    (encLoad_encrypting hw hv s.port.din) hreset n hn
  exact ⟨t, (run_succ n (step_of_encryptBlock hw hr hc hcmd hb hv)).trans hrun, ht⟩

/-- Settles O58: `encryptState` at 11 is the ciphertext, and at `j` from 1 to 10 the state after `j - 1` full rounds. -/
theorem encryptionEqualsItsFunction : Obligations.EncryptionEqualsItsFunction := by
  intro s p rest hw hin hr hc hcmd hb hv hreset
  obtain rfl : s.port = p := by rw [State.port, hin]; rfl
  obtain rfl : s.inputs.tail = rest := by rw [hin]; rfl
  have hrun := run_encrypting hw hr hc hcmd hb hv hreset
  refine ⟨?_, fun j h1 h10 => ?_⟩
  · obtain ⟨t, ht, h⟩ := hrun 11 le_rfl
    exact ⟨t, ht, h.state, h.state, h.phase, h.rnd, h.rk, h.ki, h.kvalid⟩
  · obtain ⟨n, rfl⟩ : ∃ n, j = n + 1 := ⟨j - 1, by omega⟩
    obtain ⟨t, ht, h⟩ := hrun (n + 1) (by omega)
    exact ⟨t, ht, h.state.trans (if_neg (by omega))⟩

/-! ### Step counts (R165) -/

/-- Settles O59: the phase after each step, from the two runs. -/
theorem operationsTakeTheirStepCounts : Obligations.OperationsTakeTheirStepCounts := by
  intro s p rest hw hin hr hc hb
  obtain rfl : s.port = p := by rw [State.port, hin]; rfl
  obtain rfl : s.inputs.tail = rest := by rw [hin]; rfl
  refine ⟨fun hcmd hreset => ?_, fun hcmd hv hreset => ?_⟩
  · have hrun := run_expanding hw hr hc hcmd hb (quiet := False) fun q hq => ⟨hreset q hq, False.elim⟩
    refine ⟨fun n hn => ?_, ?_⟩
    · obtain ⟨t, ht, h⟩ := hrun n (by omega)
      exact ⟨t, ht, by rw [State.busy, h.phase, if_neg (by omega)]; rfl⟩
    · obtain ⟨t, ht, h⟩ := hrun 40 le_rfl
      exact ⟨t, ht, by rw [State.busy, h.phase]; rfl, h.kvalid rfl⟩
  · have hrun := run_encrypting hw hr hc hcmd hb hv hreset
    refine ⟨fun n hn => ?_, ?_⟩
    · obtain ⟨t, ht, h⟩ := hrun n (by omega)
      exact ⟨t, ht, by rw [State.busy, h.phase, encryptPhase_busy (by omega)]⟩
    · obtain ⟨t, ht, h⟩ := hrun 11 le_rfl
      exact ⟨t, ht, t.done_eq_true.2 h.phase⟩

end Sys2Proof.Machine
end

section
/-! PROOF. Rejections (60_exceptions.md R180 to R188): which command rejects with which code, and that a rejection shows
in `ERR` and `EFLAG` only. -/

namespace Sys2Proof.Machine

/-! ### The rejecting commands (R182 to R185) -/

theorem exec_reservedOp3 (len : BitVec 5) (s : State) :
    exec (.reservedOp3 len) s = seqOp (s.reject .illegalCommand) := rfl

theorem exec_reservedOp47 (opLow : BitVec 2) (len : BitVec 5) (s : State) :
    exec (.reservedOp47 opLow len) s = seqOp (s.reject .illegalCommand) := rfl

theorem exec_expandKey_busy {s : State} (hb : s.busy = true) (len : BitVec 5) (din : Block) :
    exec (.expandKey len din) s = seqOp (s.reject .busy) := if_pos hb

theorem exec_encryptBlock_busy {s : State} (hb : s.busy = true) (len : BitVec 5) (din : Block) :
    exec (.encryptBlock len din) s = seqOp (s.reject .busy) := if_pos hb

theorem lenOk_eq_false {len : BitVec 5} (hl : len ≠ 16) : lenOk len = false := beq_eq_false_iff_ne.2 hl

theorem exec_expandKey_invalidLength {s : State} (hb : s.busy = false) {len : BitVec 5} (hl : len ≠ 16) (din : Block) :
    exec (.expandKey len din) s = seqOp (s.reject .invalidLength) := by
  simp [exec, execExpandKey, rejectThenSeqOp, hb, lenOk_eq_false hl]

theorem exec_encryptBlock_invalidLength {s : State} (hb : s.busy = false) {len : BitVec 5} (hl : len ≠ 16)
    (din : Block) : exec (.encryptBlock len din) s = seqOp (s.reject .invalidLength) := by
  simp [exec, execEncryptBlock, rejectThenSeqOp, hb, lenOk_eq_false hl]

theorem exec_encryptBlock_noKey {s : State} (hb : s.busy = false) (hv : s.KVALID = false) (din : Block) :
    exec (.encryptBlock 16 din) s = seqOp (s.reject .noKey) := by
  simp [exec, execEncryptBlock, rejectThenSeqOp, lenOk, hb, hv]

/-- Settles O25: `NOP` is `SeqOp`, so a clause is the rule of the rejecting command; the three words of the examples
decode to `RESERVED_OP3`, `EXPAND_KEY` and `ENCRYPT_BLOCK`. -/
theorem rejectionsFollowThePriority : Obligations.RejectionsFollowThePriority := by
  refine fun s => ⟨fun len => exec_reservedOp3 len s, fun opLow len => exec_reservedOp47 opLow len s,
    fun len din hb => ⟨exec_expandKey_busy hb len din, exec_encryptBlock_busy hb len din⟩,
    fun len din hb hl => ⟨exec_expandKey_invalidLength hb hl din, exec_encryptBlock_invalidLength hb hl din⟩,
    fun din hb hv => exec_encryptBlock_noKey hb hv din, fun din hb => ⟨?_, ?_⟩, fun din hb _ => ?_⟩
  · rw [decodeCmd_reservedOp3 (by decide)]
    exact exec_reservedOp3 _ s
  · rw [decodeCmd_expandKey (by decide)]
    exact exec_expandKey_busy hb _ din
  · rw [decodeCmd_encryptBlock (by decide)]
    exact exec_encryptBlock_invalidLength hb (by decide) din

/-- In a legal state a rejection completes, with its code on `err`. -/
theorem seqOp_reject_completes {s : State} (hw : s.wf) (k : Rejection) :
    ∃ t, seqOp (s.reject k) = .next t ∧ t.errOut = rejectionCode k ∧ t.EFLAG = true := by
  have hnext := seqOp_eq_seqNext ((s.reject_wf k).2 hw)
  exact ⟨_, hnext, seqOp_reject_status hnext⟩

/-- Settles O26: both reserved rows reject with `IllegalCommand`. -/
theorem reservedCommandsAreIllegal : Obligations.ReservedCommandsAreIllegal := fun _ _ _ hw =>
  ⟨seqOp_reject_completes hw .illegalCommand, seqOp_reject_completes hw .illegalCommand⟩

/-! ### A step that presents a command (R186, R187) -/

/-- A presented command is rejected before the micro-operation of the step, or accepted with code 0. -/
theorem step_rejects_or_accepts {s : State} (hr : s.port.rst = false) (hw : s.wf)
    (hp : Safety.presents s.port = true) :
    (∃ k, step s = seqOp (s.sampled.reject k)) ∨ ∃ t, step s = .next t ∧ t.ERR = .accepted := by
  rw [step_chain hr hw, if_neg (by simp [hp])]
  split_ifs
  · exact Or.inl ⟨_, rfl⟩
  · exact Or.inl ⟨_, rfl⟩
  · exact Or.inl ⟨_, rfl⟩
  · exact Or.inl ⟨_, rfl⟩
  · exact Or.inr ⟨_, rfl, rfl⟩
  · exact Or.inr ⟨_, rfl, rfl⟩

/-- Settles O7: a reset always completes, and what else a step can be in a legal state ends in `SeqOp` or in a load. -/
theorem legalStatesNeverStop : Obligations.LegalStatesNeverStop := by
  intro s hw
  have hsampled : s.sampled.wf := s.sampled_wf.2 hw
  cases hr : s.port.rst with
  | true => exact ⟨_, step_of_rst hr⟩
  | false =>
    cases hp : Safety.presents s.port with
    | false =>
      rw [step_chain hr hw, if_pos hp]
      exact ⟨_, seqOp_eq_seqNext hsampled⟩
    | true =>
      rcases step_rejects_or_accepts hr hw hp with ⟨k, hstep⟩ | ⟨t, hstep, -⟩
      · exact ⟨_, hstep.trans (seqOp_eq_seqNext ((s.sampled.reject_wf k).2 hsampled))⟩
      · exact ⟨t, hstep⟩

/-- The micro-operation reads neither status register, so a rejection can as well be recorded after it. -/
theorem State.seqNext_reject (s : State) (k : Rejection) : (s.reject k).seqNext = s.seqNext.reject k := by
  cases hp : s.PHASE with
  | idle => rw [State.seqNext_idle hp, State.seqNext_idle (s := s.reject k) hp]
  | kexp => rw [State.seqNext_kexp hp, State.seqNext_kexp (s := s.reject k) hp]; rfl
  | initial => rw [State.seqNext_initial hp, State.seqNext_initial (s := s.reject k) hp]; rfl
  | round => rw [State.seqNext_round hp, State.seqNext_round (s := s.reject k) hp]; rfl
  | final => rw [State.seqNext_final hp, State.seqNext_final (s := s.reject k) hp]; rfl
  | done => rw [State.seqNext_done hp, State.seqNext_done (s := s.reject k) hp]

/-- Settles O27: the rejected command's step is the micro-operation on the state with the rejection recorded, and
`State.seqNext_reject` moves the record behind it. -/
theorem rejectionDisturbsNothing : Obligations.RejectionDisturbsNothing := by
  intro s t u p q rest hrp hrq hcq ht hu hp herr
  have hw : (s.offer (p :: rest)).wf := wf_of_step (s := s.offer (p :: rest)) hrp hu
  have ht' : t = (s.offer rest).seqNext := by
    rw [step_offer_of_not_presents hrq (presents_eq_false.2 (Or.inl hcq)), if_pos ((s.offer_wf _).1 hw)] at ht
    exact eq_seqNext_of_seqOp ht
  rcases step_rejects_or_accepts (s := s.offer (p :: rest)) hrp hw hp with ⟨k, hstep⟩ | ⟨v, hstep, hv⟩
  · have hu' : u = ((s.offer rest).reject k).seqNext := eq_seqNext_of_seqOp (hstep.symm.trans hu)
    rw [hu', State.seqNext_reject, ht']
    rfl
  · rw [hstep] at hu
    cases hu
    exact absurd hv herr

end Sys2Proof.Machine
end

section
/-! PROOF. Reset steps and the sampling of `DIN` (70_reset_and_hazards.md R200, R205). -/

namespace Sys2Proof.Machine

/-! ### Reset steps (R200) -/

/-- A reset step reads `rst` and no other port. -/
theorem step_offer_of_rst {p : PortSample} (hr : p.rst = true) (s : State) (rest : List PortSample) :
    step (s.offer (p :: rest)) = .next (s.offer rest).resetStep :=
  step_of_rst (s := s.offer (p :: rest)) hr

/-- Settles O12: the step is `resetStep`, on the ports that remain. -/
theorem resetStepLeavesTheResetState : Obligations.ResetStepLeavesTheResetState :=
  ⟨fun _ hr => ⟨_, step_of_rst hr, rfl, rfl, rfl, rfl, rfl, rfl⟩, fun s _ _ rest hp hq =>
    (step_offer_of_rst hp s rest).trans (step_offer_of_rst hq s rest).symm⟩

/-! ### Sampling `DIN` (R205) -/

/-- A command that is not accepted leaves its operand unread: `NOP` and the reserved rows have none, and the other two
are rejected. -/
theorem exec_decodeCmd_congr_din {w : BitVec 8} {s : State}
    (hacc : ¬ (s.busy = false ∧ (w = 0x30#8 ∨ (w = 0x50#8 ∧ s.KVALID = true)))) (d e : Block) :
    exec (decodeCmd w d) s = exec (decodeCmd w e) s := by
  obtain ⟨h30, h50⟩ := cmd_of_fields w
  rcases opField_cases w with hop | hop | hop | hop | hop
  · rw [decodeCmd_nop hop, decodeCmd_nop hop]
  · rw [decodeCmd_expandKey hop, decodeCmd_expandKey hop]
    cases hb : s.busy with
    | true => rw [exec_expandKey_busy hb, exec_expandKey_busy hb]
    | false =>
      have hl : lenField w ≠ 16 := fun hl => hacc ⟨hb, Or.inl (h30.1 ⟨hop, hl⟩)⟩
      rw [exec_expandKey_invalidLength hb hl, exec_expandKey_invalidLength hb hl]
  · rw [decodeCmd_encryptBlock hop, decodeCmd_encryptBlock hop]
    cases hb : s.busy with
    | true => rw [exec_encryptBlock_busy hb, exec_encryptBlock_busy hb]
    | false =>
      by_cases hl : lenField w = 16
      · have hv : s.KVALID = false :=
          Bool.eq_false_of_not_eq_true fun hv => hacc ⟨hb, Or.inr ⟨h50.1 ⟨hop, hl⟩, hv⟩⟩
        rw [hl, exec_encryptBlock_noKey hb hv, exec_encryptBlock_noKey hb hv]
      · rw [exec_encryptBlock_invalidLength hb hl, exec_encryptBlock_invalidLength hb hl]
  · rw [decodeCmd_reservedOp3 hop, decodeCmd_reservedOp3 hop]
  · rw [decodeCmd_reservedOp47 hop, decodeCmd_reservedOp47 hop]

/-- `step_of_wf` and `step_of_not_wf` with the sample and the ports that remain written out. -/
theorem step_offer_of_not_rst {p : PortSample} (hr : p.rst = false) (s : State) (rest : List PortSample) :
    step (s.offer (p :: rest)) =
      if s.wf then
        if p.cmdValid then exec (decodeCmd p.cmd p.din) (s.offer rest) else seqOp (s.offer rest)
      else .fault .stuck := by
  have hwf := s.offer_wf (p :: rest)
  split_ifs with hw hc
  · exact (step_of_wf (s := s.offer (p :: rest)) hr (hwf.2 hw)).trans (if_pos hc)
  · exact (step_of_wf (s := s.offer (p :: rest)) hr (hwf.2 hw)).trans (if_neg hc)
  · exact step_of_not_wf (s := s.offer (p :: rest)) hr (mt hwf.1 hw)

/-- Settles O15: a reset and a step without command read no operand, and `exec_decodeCmd_congr_din` is the step that
presents a command. -/
theorem dinIsReadOnlyOnAcceptance : Obligations.DinIsReadOnlyOnAcceptance := by
  intro s p rest d hacc
  rcases Bool.eq_false_or_eq_true p.rst with hr | hr
  · rw [step_offer_of_rst hr, step_offer_of_rst (p := { p with din := d }) hr]
  · have hexec (hc : p.cmdValid = true) :
        exec (decodeCmd p.cmd p.din) (s.offer rest) = exec (decodeCmd p.cmd d) (s.offer rest) :=
      exec_decodeCmd_congr_din (s := s.offer rest) (fun h => hacc ⟨hr, hc, h⟩) p.din d
    rw [step_offer_of_not_rst hr, step_offer_of_not_rst (p := { p with din := d }) hr]
    split_ifs with hw hc
    · exact hexec hc
    · rfl
    · rfl

end Sys2Proof.Machine
end
